-- ==== Sys2Proof/Word.lean ====
section
/-! DEFINITION. The machine's word types (00_scope.md R7, R8, R9): 32-bit words, bytes, register numbers. -/

namespace Sys2Proof

/-- A 32-bit value: registers, pc, addresses while they are computed, instruction words (R7, R8). -/
abbrev Word := BitVec 32

/-- One byte of a memory (R28). -/
abbrev Byte := BitVec 8

/-- A register number, 0 to 31 (R20). -/
abbrev RegIdx := BitVec 5

end Sys2Proof
end

