-- ==== Sys2Proof/Machine/Flags.lean ====
section
/-! DEFINITION. Conditions. The hardware has no flag that an instruction sets or tests (10_state.md R26): what other
machines keep in flags is here a comparison of two values, made and used at once. -/

namespace Sys2Proof.Machine

/-- `signed(a) < signed(b)` (40_alu_register.md R123). -/
def signedLess (a b : Word) : Bool := decide (a.toInt < b.toInt)

/-- `unsigned(a) < unsigned(b)` (R124). -/
def unsignedLess (a b : Word) : Bool := decide (a.toNat < b.toNat)

/-- A condition as a 32-bit value, 1 or 0 (R123, R124). -/
def conditionWord (c : Bool) : Word := if c then 1 else 0

/-- `ALU_zero`: the result is `0x00000000` (45_control_word.md R202). -/
def isZero (a : Word) : Bool := a == 0

end Sys2Proof.Machine
end

