-- ==== Sys2Proof/Config.lean ====
section
/-! DEFINITION. What a configuration fixes (control-word layout, delays) and the free values and open parameters
of the block. The layout and the delays are held in State, since the spec holds them in the block (10_state.md R38). -/

namespace Sys2Proof

/-- `{position, width}` of one control field: least significant bit and number of bits (R191). -/
structure FieldPos where
  position : Nat
  width    : Nat
  deriving DecidableEq, Repr

/-- `CW_LAYOUT`: one entry per named control field (R190). -/
structure CwLayout where
  aluCtr : FieldPos
  resSrc : FieldPos
  immSrc : FieldPos
  pcSrc  : FieldPos
  aluSrc : FieldPos
  brWr   : FieldPos
  memWr  : FieldPos
  deriving DecidableEq, Repr

/-- The default 14-bit layout (R192). -/
def CwLayout.default : CwLayout where
  brWr   := ⟨0, 1⟩
  memWr  := ⟨1, 1⟩
  aluSrc := ⟨2, 1⟩
  resSrc := ⟨3, 2⟩
  immSrc := ⟨5, 2⟩
  pcSrc  := ⟨7, 3⟩
  aluCtr := ⟨10, 4⟩

/-- `DELAY`: delay units of each datapath component (R293). -/
structure Delay where
  add  : Nat
  imem : Nat
  dmem : Nat
  rf   : Nat
  ctrl : Nat
  imm  : Nat
  mux  : Nat
  alu  : Nat
  zero : Nat
  br   : Nat
  haz  : Nat
  fwd  : Nat
  deriving DecidableEq, Repr

/-- The default: every component takes 1 unit (R293). -/
def Delay.default : Delay where
  add  := 1
  imem := 1
  dmem := 1
  rf   := 1
  ctrl := 1
  imm  := 1
  mux  := 1
  alu  := 1
  zero := 1
  br   := 1
  haz  := 1
  fwd  := 1

/-- FREE VALUE: what `status` holds after the committing tick numbered `n` (R27, 93 U1). Nothing can
evaluate it, so whatever is proved holds for every content of the status register (log 1). -/
opaque Config.freeStatus : Nat → Word

/-- OPEN PARAMETER `size_supported`: which memory sizes construction accepts, besides the constraint the
spec puts on every size (R7, R322, 93 U7; log 11). -/
opaque Config.sizeSupported : Nat → Bool

/-- OPEN PARAMETER behind `STEP_CAP`, one less than it, so that the cap is positive (R328, 93 U2; log 11). -/
opaque Config.stepCapLessOne : Nat

end Sys2Proof
end

