-- ==== Sys2Proof/Syntax.lean ====
section
/-! DEFINITION. The instructions: one constructor per row of the opcode table (30_encoding.md R89). -/

namespace Sys2Proof

/-- The format tags (R82). No admitted instruction is U-format (R87). -/
inductive Format where
  | r | i | s | b | u | j
  deriving DecidableEq, Repr

/-- One constructor per admitted instruction. Immediates are kept as the encoding carries them: 12 bits (I, S),
5 bits (shift amounts), 13 bits with bit 0 clear (B), 21 bits with bit 0 clear (J). -/
inductive Instr where
  -- register-register, 40_alu_register.md R120 to R129
  | add  (rd rs1 rs2 : RegIdx)
  | sub  (rd rs1 rs2 : RegIdx)
  | sll  (rd rs1 rs2 : RegIdx)
  | slt  (rd rs1 rs2 : RegIdx)
  | sltu (rd rs1 rs2 : RegIdx)
  | xor  (rd rs1 rs2 : RegIdx)
  | srl  (rd rs1 rs2 : RegIdx)
  | sra  (rd rs1 rs2 : RegIdx)
  | or   (rd rs1 rs2 : RegIdx)
  | and  (rd rs1 rs2 : RegIdx)
  -- register-immediate, 41_alu_immediate.md R140 to R148
  | addi  (rd rs1 : RegIdx) (imm : BitVec 12)
  | slti  (rd rs1 : RegIdx) (imm : BitVec 12)
  | sltiu (rd rs1 : RegIdx) (imm : BitVec 12)
  | xori  (rd rs1 : RegIdx) (imm : BitVec 12)
  | ori   (rd rs1 : RegIdx) (imm : BitVec 12)
  | andi  (rd rs1 : RegIdx) (imm : BitVec 12)
  | slli  (rd rs1 : RegIdx) (shamt : BitVec 5)
  | srli  (rd rs1 : RegIdx) (shamt : BitVec 5)
  | srai  (rd rs1 : RegIdx) (shamt : BitVec 5)
  -- load and store, 42_load_store.md R160, R161
  | lw (rd rs1 : RegIdx) (imm : BitVec 12)
  | sw (rs2 rs1 : RegIdx) (imm : BitVec 12)
  -- control transfer, 43_control_transfer.md R170 to R173
  | beq  (rs1 rs2 : RegIdx) (imm : BitVec 13)
  | bne  (rs1 rs2 : RegIdx) (imm : BitVec 13)
  | jal  (rd : RegIdx) (imm : BitVec 21)
  | jalr (rd rs1 : RegIdx) (imm : BitVec 12)
  deriving DecidableEq, Repr

/-- The names of the opcode table (R89). -/
inductive Mnemonic where
  | ADD | SUB | SLL | SLT | SLTU | XOR | SRL | SRA | OR | AND
  | ADDI | SLTI | SLTIU | XORI | ORI | ANDI | SLLI | SRLI | SRAI
  | LW | SW | BEQ | BNE | JAL | JALR
  deriving DecidableEq, Repr

/-- The row of the opcode table an instruction stands for. -/
def Instr.mnemonic : Instr → Mnemonic
  | .add _ _ _   => .ADD
  | .sub _ _ _   => .SUB
  | .sll _ _ _   => .SLL
  | .slt _ _ _   => .SLT
  | .sltu _ _ _  => .SLTU
  | .xor _ _ _   => .XOR
  | .srl _ _ _   => .SRL
  | .sra _ _ _   => .SRA
  | .or _ _ _    => .OR
  | .and _ _ _   => .AND
  | .addi _ _ _  => .ADDI
  | .slti _ _ _  => .SLTI
  | .sltiu _ _ _ => .SLTIU
  | .xori _ _ _  => .XORI
  | .ori _ _ _   => .ORI
  | .andi _ _ _  => .ANDI
  | .slli _ _ _  => .SLLI
  | .srli _ _ _  => .SRLI
  | .srai _ _ _  => .SRAI
  | .lw _ _ _    => .LW
  | .sw _ _ _    => .SW
  | .beq _ _ _   => .BEQ
  | .bne _ _ _   => .BNE
  | .jal _ _     => .JAL
  | .jalr _ _ _  => .JALR

/-- The format column of the opcode table (R89). -/
def Mnemonic.format : Mnemonic → Format
  | .ADD | .SUB | .SLL | .SLT | .SLTU | .XOR | .SRL | .SRA | .OR | .AND => .r
  | .ADDI | .SLTI | .SLTIU | .XORI | .ORI | .ANDI | .SLLI | .SRLI | .SRAI => .i
  | .LW | .JALR => .i
  | .SW => .s
  | .BEQ | .BNE => .b
  | .JAL => .j

def Instr.format (i : Instr) : Format := i.mnemonic.format

end Sys2Proof
end

