-- ==== Sys2Proof/WellFormed.lean ====
section
/-! DEFINITION. Which instruction terms the encoding can carry: branch and jump offsets are even
(30_encoding.md R85, R86). Every other operand is bounded by its type. -/

namespace Sys2Proof

/-- Bit 0 of a B-immediate is always 0 (R85). -/
def evenOffset13 (imm : BitVec 13) : Bool := !imm.getLsbD 0

/-- Bit 0 of a J-immediate is always 0 (R86). -/
def evenOffset21 (imm : BitVec 21) : Bool := !imm.getLsbD 0

/-- An instruction whose operands its format can encode. -/
def Instr.wellFormed : Instr → Bool
  | .add _ _ _   => true
  | .sub _ _ _   => true
  | .sll _ _ _   => true
  | .slt _ _ _   => true
  | .sltu _ _ _  => true
  | .xor _ _ _   => true
  | .srl _ _ _   => true
  | .sra _ _ _   => true
  | .or _ _ _    => true
  | .and _ _ _   => true
  | .addi _ _ _  => true
  | .slti _ _ _  => true
  | .sltiu _ _ _ => true
  | .xori _ _ _  => true
  | .ori _ _ _   => true
  | .andi _ _ _  => true
  | .slli _ _ _  => true
  | .srli _ _ _  => true
  | .srai _ _ _  => true
  | .lw _ _ _    => true
  | .sw _ _ _    => true
  | .beq _ _ imm => evenOffset13 imm
  | .bne _ _ imm => evenOffset13 imm
  | .jal _ imm   => evenOffset21 imm
  | .jalr _ _ _  => true

end Sys2Proof
end

