-- ==== Sys2Proof/Decode.lean ====
section
/-! DEFINITION. The fetch decoder and the encoder (30_encoding.md R80 to R94). `decode` is total and strict: a word
is one of the 25 instructions or invalid, and the reason is named. -/

namespace Sys2Proof

/-! ## Fields common to all formats (R81) -/

def fieldOpcode (w : Word) : BitVec 7 := w.extractLsb' 0 7
def fieldRd     (w : Word) : RegIdx   := w.extractLsb' 7 5
def fieldFunct3 (w : Word) : BitVec 3 := w.extractLsb' 12 3
def fieldRs1    (w : Word) : RegIdx   := w.extractLsb' 15 5
def fieldRs2    (w : Word) : RegIdx   := w.extractLsb' 20 5
def fieldFunct7 (w : Word) : BitVec 7 := w.extractLsb' 25 7

/-! ## Immediates as the formats carry them (R82) -/

/-- `instr[31:20]` (R83). -/
def rawImmI (w : Word) : BitVec 12 := w.extractLsb' 20 12

/-- `instr[31:25] ++ instr[11:7]` (R84). -/
def rawImmS (w : Word) : BitVec 12 := w.extractLsb' 25 7 ++ w.extractLsb' 7 5

/-- `instr[31] ++ instr[7] ++ instr[30:25] ++ instr[11:8] ++ 0b0` (R85). -/
def rawImmB (w : Word) : BitVec 13 :=
  w.extractLsb' 31 1 ++ w.extractLsb' 7 1 ++ w.extractLsb' 25 6 ++ w.extractLsb' 8 4 ++ 0#1

/-- `instr[31] ++ instr[19:12] ++ instr[20] ++ instr[30:21] ++ 0b0` (R86). -/
def rawImmJ (w : Word) : BitVec 21 :=
  w.extractLsb' 31 1 ++ w.extractLsb' 12 8 ++ w.extractLsb' 20 1 ++ w.extractLsb' 21 10 ++ 0#1

/-- `instr[24:20]` of the shift-immediate instructions (R94). -/
def rawShamt (w : Word) : BitVec 5 := w.extractLsb' 20 5

/-! ## Extended immediates (R83 to R87) -/

def immI (w : Word) : Word := (rawImmI w).signExtend 32
def immS (w : Word) : Word := (rawImmS w).signExtend 32
def immB (w : Word) : Word := (rawImmB w).signExtend 32
def immJ (w : Word) : Word := (rawImmJ w).signExtend 32

/-- `instr[31:12] ++ 0x000`; no admitted instruction uses it (R87). -/
def immU (w : Word) : Word := w.extractLsb' 12 20 ++ 0#12

/-! ## The decoder (R88 to R92) -/

/-- Why a word is the invalid instruction (R91): its major opcode selects nothing, or its opcode is known and
a function code is not. -/
inductive InvalidReason where
  | unknownOpcode
  | unknownFunct3
  | unknownFunct7
  deriving DecidableEq, Repr

/-- The two results of the decoder (R90). -/
inductive Decoded where
  | instr   (i : Instr)
  | invalid (why : InvalidReason)
  deriving DecidableEq, Repr

/-- Major opcode OP, 0x33. -/
def decodeOp (w : Word) : Decoded :=
  let rd := fieldRd w
  let rs1 := fieldRs1 w
  let rs2 := fieldRs2 w
  if fieldFunct7 w = 0b0000000#7 then
    if fieldFunct3 w = 0b000#3 then .instr (.add rd rs1 rs2)
    else if fieldFunct3 w = 0b001#3 then .instr (.sll rd rs1 rs2)
    else if fieldFunct3 w = 0b010#3 then .instr (.slt rd rs1 rs2)
    else if fieldFunct3 w = 0b011#3 then .instr (.sltu rd rs1 rs2)
    else if fieldFunct3 w = 0b100#3 then .instr (.xor rd rs1 rs2)
    else if fieldFunct3 w = 0b101#3 then .instr (.srl rd rs1 rs2)
    else if fieldFunct3 w = 0b110#3 then .instr (.or rd rs1 rs2)
    else .instr (.and rd rs1 rs2)
  else if fieldFunct7 w = 0b0100000#7 then
    if fieldFunct3 w = 0b000#3 then .instr (.sub rd rs1 rs2)
    else if fieldFunct3 w = 0b101#3 then .instr (.sra rd rs1 rs2)
    else .invalid .unknownFunct7
  else .invalid .unknownFunct7

/-- Major opcode OP-IMM, 0x13. -/
def decodeOpImm (w : Word) : Decoded :=
  let rd := fieldRd w
  let rs1 := fieldRs1 w
  if fieldFunct3 w = 0b000#3 then .instr (.addi rd rs1 (rawImmI w))
  else if fieldFunct3 w = 0b010#3 then .instr (.slti rd rs1 (rawImmI w))
  else if fieldFunct3 w = 0b011#3 then .instr (.sltiu rd rs1 (rawImmI w))
  else if fieldFunct3 w = 0b100#3 then .instr (.xori rd rs1 (rawImmI w))
  else if fieldFunct3 w = 0b110#3 then .instr (.ori rd rs1 (rawImmI w))
  else if fieldFunct3 w = 0b111#3 then .instr (.andi rd rs1 (rawImmI w))
  else if fieldFunct3 w = 0b001#3 then
    if fieldFunct7 w = 0b0000000#7 then .instr (.slli rd rs1 (rawShamt w))
    else .invalid .unknownFunct7
  else if fieldFunct7 w = 0b0000000#7 then .instr (.srli rd rs1 (rawShamt w))
  else if fieldFunct7 w = 0b0100000#7 then .instr (.srai rd rs1 (rawShamt w))
  else .invalid .unknownFunct7

/-- Major opcode LOAD, 0x03: only the word load is admitted. -/
def decodeLoad (w : Word) : Decoded :=
  if fieldFunct3 w = 0b010#3 then .instr (.lw (fieldRd w) (fieldRs1 w) (rawImmI w))
  else .invalid .unknownFunct3

/-- Major opcode STORE, 0x23: only the word store is admitted. -/
def decodeStore (w : Word) : Decoded :=
  if fieldFunct3 w = 0b010#3 then .instr (.sw (fieldRs2 w) (fieldRs1 w) (rawImmS w))
  else .invalid .unknownFunct3

/-- Major opcode BRANCH, 0x63: only equal and not-equal are admitted. -/
def decodeBranch (w : Word) : Decoded :=
  if fieldFunct3 w = 0b000#3 then .instr (.beq (fieldRs1 w) (fieldRs2 w) (rawImmB w))
  else if fieldFunct3 w = 0b001#3 then .instr (.bne (fieldRs1 w) (fieldRs2 w) (rawImmB w))
  else .invalid .unknownFunct3

/-- Major opcode JALR, 0x67. -/
def decodeJalr (w : Word) : Decoded :=
  if fieldFunct3 w = 0b000#3 then .instr (.jalr (fieldRd w) (fieldRs1 w) (rawImmI w))
  else .invalid .unknownFunct3

/-- `decode(word)`: total, strict, no other input (R90, R91). -/
def decode (w : Word) : Decoded :=
  if fieldOpcode w = 0b0110011#7 then decodeOp w
  else if fieldOpcode w = 0b0010011#7 then decodeOpImm w
  else if fieldOpcode w = 0b0000011#7 then decodeLoad w
  else if fieldOpcode w = 0b0100011#7 then decodeStore w
  else if fieldOpcode w = 0b1100011#7 then decodeBranch w
  else if fieldOpcode w = 0b1101111#7 then .instr (.jal (fieldRd w) (rawImmJ w))
  else if fieldOpcode w = 0b1100111#7 then decodeJalr w
  else .invalid .unknownOpcode

/-- The admitted instruction, if the word is one. -/
def Decoded.toOption : Decoded → Option Instr
  | .instr i   => some i
  | .invalid _ => none

/-- The immediate of an instruction's format, 0 for the R format (R90). -/
def formatImm (f : Format) (w : Word) : Word :=
  match f with
  | .r => 0
  | .i => immI w
  | .s => immS w
  | .b => immB w
  | .u => immU w
  | .j => immJ w

/-- The decoded value the document describes (R90): the mnemonic, the format tag, the six raw fields whatever
the format, and the format's immediate. -/
structure Instruction where
  mnemonic : Mnemonic
  format   : Format
  opcode   : BitVec 7
  funct3   : BitVec 3
  funct7   : BitVec 7
  rd       : RegIdx
  rs1      : RegIdx
  rs2      : RegIdx
  imm      : Word
  deriving DecidableEq, Repr

/-- `decode(word) -> Instruction`, none for the invalid instruction (R90). -/
def decodeInstruction (w : Word) : Option Instruction :=
  match decode w with
  | .invalid _ => none
  | .instr i => some
      { mnemonic := i.mnemonic, format := i.format, opcode := fieldOpcode w, funct3 := fieldFunct3 w,
        funct7 := fieldFunct7 w, rd := fieldRd w, rs1 := fieldRs1 w, rs2 := fieldRs2 w,
        imm := formatImm i.format w }

/-! ## Bytes (R50, R80) -/

/-- A little-endian word from its four bytes, the lowest address first (R50, R51). -/
def wordOfBytes (b0 b1 b2 b3 : Byte) : Word := b3 ++ b2 ++ b1 ++ b0

/-- Byte `k` of a word, byte 0 the least significant (R53). -/
def byteOfWord (w : Word) (k : Nat) : Byte := w.extractLsb' (8 * k) 8

/-- The four bytes of a word in the order memory holds them (R50). -/
def bytesOfWord (w : Word) : List Byte :=
  [byteOfWord w 0, byteOfWord w 1, byteOfWord w 2, byteOfWord w 3]

/-- Decoding a byte string: one instruction is exactly four bytes (R80); the rest of the string is handed back. -/
def decodeBytes : List Byte → Option (Decoded × List Byte)
  | b0 :: b1 :: b2 :: b3 :: rest => some (decode (wordOfBytes b0 b1 b2 b3), rest)
  | [] => none
  | [_] => none
  | [_, _] => none
  | [_, _, _] => none

/-- The decoder on a table word: bit 0 is the least significant bit of the first word, bits from `nbits` up are 0. -/
def decodeTableWord (nbits w : Nat) : Option Instr :=
  match decodeBytes (bytesOfWord (BitVec.ofNat 32 (w % 2 ^ nbits))) with
  | some (d, _) => d.toOption
  | none => none

/-! ## The encoder, from the same formats (R82, R89) -/

def encodeR (funct7 : BitVec 7) (rs2 rs1 : RegIdx) (funct3 : BitVec 3) (rd : RegIdx) (op : BitVec 7) : Word :=
  funct7 ++ rs2 ++ rs1 ++ funct3 ++ rd ++ op

def encodeI (imm : BitVec 12) (rs1 : RegIdx) (funct3 : BitVec 3) (rd : RegIdx) (op : BitVec 7) : Word :=
  imm ++ rs1 ++ funct3 ++ rd ++ op

def encodeS (imm : BitVec 12) (rs2 rs1 : RegIdx) (funct3 : BitVec 3) (op : BitVec 7) : Word :=
  imm.extractLsb' 5 7 ++ rs2 ++ rs1 ++ funct3 ++ imm.extractLsb' 0 5 ++ op

def encodeB (imm : BitVec 13) (rs2 rs1 : RegIdx) (funct3 : BitVec 3) (op : BitVec 7) : Word :=
  imm.extractLsb' 12 1 ++ imm.extractLsb' 5 6 ++ rs2 ++ rs1 ++ funct3 ++ imm.extractLsb' 1 4
    ++ imm.extractLsb' 11 1 ++ op

def encodeJ (imm : BitVec 21) (rd : RegIdx) (op : BitVec 7) : Word :=
  imm.extractLsb' 20 1 ++ imm.extractLsb' 1 10 ++ imm.extractLsb' 11 1 ++ imm.extractLsb' 12 8 ++ rd ++ op

/-- The word of a well-formed instruction (R89). -/
def encode : Instr → Word
  | .add rd rs1 rs2    => encodeR 0b0000000 rs2 rs1 0b000 rd 0b0110011
  | .sub rd rs1 rs2    => encodeR 0b0100000 rs2 rs1 0b000 rd 0b0110011
  | .sll rd rs1 rs2    => encodeR 0b0000000 rs2 rs1 0b001 rd 0b0110011
  | .slt rd rs1 rs2    => encodeR 0b0000000 rs2 rs1 0b010 rd 0b0110011
  | .sltu rd rs1 rs2   => encodeR 0b0000000 rs2 rs1 0b011 rd 0b0110011
  | .xor rd rs1 rs2    => encodeR 0b0000000 rs2 rs1 0b100 rd 0b0110011
  | .srl rd rs1 rs2    => encodeR 0b0000000 rs2 rs1 0b101 rd 0b0110011
  | .sra rd rs1 rs2    => encodeR 0b0100000 rs2 rs1 0b101 rd 0b0110011
  | .or rd rs1 rs2     => encodeR 0b0000000 rs2 rs1 0b110 rd 0b0110011
  | .and rd rs1 rs2    => encodeR 0b0000000 rs2 rs1 0b111 rd 0b0110011
  | .addi rd rs1 imm   => encodeI imm rs1 0b000 rd 0b0010011
  | .slti rd rs1 imm   => encodeI imm rs1 0b010 rd 0b0010011
  | .sltiu rd rs1 imm  => encodeI imm rs1 0b011 rd 0b0010011
  | .xori rd rs1 imm   => encodeI imm rs1 0b100 rd 0b0010011
  | .ori rd rs1 imm    => encodeI imm rs1 0b110 rd 0b0010011
  | .andi rd rs1 imm   => encodeI imm rs1 0b111 rd 0b0010011
  | .slli rd rs1 shamt => encodeR 0b0000000 shamt rs1 0b001 rd 0b0010011
  | .srli rd rs1 shamt => encodeR 0b0000000 shamt rs1 0b101 rd 0b0010011
  | .srai rd rs1 shamt => encodeR 0b0100000 shamt rs1 0b101 rd 0b0010011
  | .lw rd rs1 imm     => encodeI imm rs1 0b010 rd 0b0000011
  | .sw rs2 rs1 imm    => encodeS imm rs2 rs1 0b010 0b0100011
  | .beq rs1 rs2 imm   => encodeB imm rs2 rs1 0b000 0b1100011
  | .bne rs1 rs2 imm   => encodeB imm rs2 rs1 0b001 0b1100011
  | .jal rd imm        => encodeJ imm rd 0b1101111
  | .jalr rd rs1 imm   => encodeI imm rs1 0b000 rd 0b1100111

/-! ## The opcode table (R89) -/

/-- A row: a word `w` is the instruction exactly when `w & mask = match`. -/
structure OpcodeRow where
  mnemonic : Mnemonic
  mask     : Word
  pattern  : Word
  deriving DecidableEq, Repr

/-- The mask and match columns of R89, register-register rows. -/
def opcodeRowsOp : List OpcodeRow :=
  [⟨.ADD, 0xFE00707F, 0x00000033⟩, ⟨.SUB, 0xFE00707F, 0x40000033⟩, ⟨.SLL, 0xFE00707F, 0x00001033⟩,
   ⟨.SLT, 0xFE00707F, 0x00002033⟩, ⟨.SLTU, 0xFE00707F, 0x00003033⟩, ⟨.XOR, 0xFE00707F, 0x00004033⟩,
   ⟨.SRL, 0xFE00707F, 0x00005033⟩, ⟨.SRA, 0xFE00707F, 0x40005033⟩, ⟨.OR, 0xFE00707F, 0x00006033⟩,
   ⟨.AND, 0xFE00707F, 0x00007033⟩]

/-- The mask and match columns of R89, register-immediate rows. -/
def opcodeRowsOpImm : List OpcodeRow :=
  [⟨.ADDI, 0x0000707F, 0x00000013⟩, ⟨.SLTI, 0x0000707F, 0x00002013⟩, ⟨.SLTIU, 0x0000707F, 0x00003013⟩,
   ⟨.XORI, 0x0000707F, 0x00004013⟩, ⟨.ORI, 0x0000707F, 0x00006013⟩, ⟨.ANDI, 0x0000707F, 0x00007013⟩,
   ⟨.SLLI, 0xFE00707F, 0x00001013⟩, ⟨.SRLI, 0xFE00707F, 0x00005013⟩, ⟨.SRAI, 0xFE00707F, 0x40005013⟩]

/-- The mask and match columns of R89, the other rows. -/
def opcodeRowsRest : List OpcodeRow :=
  [⟨.LW, 0x0000707F, 0x00002003⟩, ⟨.SW, 0x0000707F, 0x00002023⟩, ⟨.BEQ, 0x0000707F, 0x00000063⟩,
   ⟨.BNE, 0x0000707F, 0x00001063⟩, ⟨.JAL, 0x0000007F, 0x0000006F⟩, ⟨.JALR, 0x0000707F, 0x00000067⟩]

/-- The complete table of R89. -/
def opcodeTable : List OpcodeRow := opcodeRowsOp ++ opcodeRowsOpImm ++ opcodeRowsRest

/-- Whether a word matches a row (R89). -/
def OpcodeRow.admits (r : OpcodeRow) (w : Word) : Bool := w &&& r.mask == r.pattern

end Sys2Proof
end

