-- ==== Sys2Proof/Machine/State.lean ====
section
/-! DEFINITION. The state of the block (10_state.md R20 to R40), the reasons a step can stop, and the state after
reset. Plain data throughout. -/

namespace Sys2Proof.Machine

/-- The fault tag of a slot and of the fault record (60_exceptions.md R340). -/
inductive FaultTag where
  | none        -- 0
  | decode      -- 1, DecodeFault
  | alignment   -- 2, AlignmentFault
  | range       -- 3, RangeFault
  deriving DecidableEq, Repr

/-- The execution models. Pipelined and General are the block's; SingleCycle is the architectural reference, one
instruction executed alone (00_scope.md R5, R11; log 4). MultiCycle is outside the block (R5). -/
inductive Model where
  | singleCycle
  | pipelined
  | general
  deriving DecidableEq, Repr

/-- The run state (10_state.md R36). -/
inductive RunState where
  | ready
  | haltedFault
  | infiniteLoopDetected
  deriving DecidableEq, Repr

/-- The fault record, all 0 when there is none (10_state.md R36, 49_host_interface.md R320). -/
structure FaultRecord where
  kind : FaultTag
  pc   : Word
  info : Word
  deriving DecidableEq, Repr

def FaultRecord.cleared : FaultRecord := ⟨.none, 0, 0⟩

/-- `IFID.out` (10_state.md R30). -/
structure IFID where
  valid     : Bool
  fault     : FaultTag
  faultInfo : Word
  pc        : Word
  pcPlus4   : Word
  instr     : Word
  deriving DecidableEq, Repr

/-- `IDEX.out` (10_state.md R31). The control word is a packed natural number: its width is the layout's. -/
structure IDEX where
  valid     : Bool
  fault     : FaultTag
  faultInfo : Word
  pc        : Word
  pcPlus4   : Word
  cw        : Nat
  rs1Idx    : RegIdx
  rs2Idx    : RegIdx
  rd        : RegIdx
  opA       : Word
  opB       : Word
  imm       : Word
  deriving DecidableEq, Repr

/-- `EXMEM.out` (10_state.md R32). -/
structure EXMEM where
  valid     : Bool
  fault     : FaultTag
  faultInfo : Word
  pc        : Word
  pcPlus4   : Word
  cw        : Nat
  rd        : RegIdx
  aluResult : Word
  storeData : Word
  deriving DecidableEq, Repr

/-- `MEMWB.out` (10_state.md R33). -/
structure MEMWB where
  valid     : Bool
  fault     : FaultTag
  faultInfo : Word
  pc        : Word
  pcPlus4   : Word
  cw        : Nat
  rd        : RegIdx
  aluResult : Word
  memData   : Word
  deriving DecidableEq, Repr

/-- `ZERO` of each pipeline register: the bubble (10_state.md R34). -/
def IFID.zero : IFID := ⟨false, .none, 0, 0, 0, 0⟩
def IDEX.zero : IDEX := ⟨false, .none, 0, 0, 0, 0, 0, 0, 0, 0, 0, 0⟩
def EXMEM.zero : EXMEM := ⟨false, .none, 0, 0, 0, 0, 0, 0, 0⟩
def MEMWB.zero : MEMWB := ⟨false, .none, 0, 0, 0, 0, 0, 0, 0⟩

/-- A byte array: the bytes that are not 0, by rising address (log 9). -/
abbrev Memory := List Host.Cell

/-- What an address that is not listed reads as: the spec's content after construction and reset (R40, R322). -/
def unlistedByte : Byte := 0

/-- Everything the spec gives the block (10_state.md R20 to R38), and one field of the model's own, `statusDraws`. -/
structure State where
  regs          : Vector Word 32   -- x0 to x31 (R20)
  pc            : Word             -- R24
  status        : Word             -- R27
  imem          : Memory           -- R28
  dmem          : Memory           -- R28
  ifid          : IFID             -- R30
  idex          : IDEX             -- R31
  exmem         : EXMEM            -- R32
  memwb         : MEMWB            -- R33
  runState      : RunState         -- R36
  faultRecord   : FaultRecord      -- R36
  cycleCount    : Nat              -- R37
  retiredCount  : Nat              -- R37
  stallCount    : Nat              -- R37
  flushCount    : Nat              -- R37
  model         : Model            -- R38
  stallsEn      : Bool             -- R38
  flushesEn     : Bool             -- R38
  forwardingEn  : Bool             -- R38
  layout        : CwLayout         -- R38
  delay         : Delay            -- R38
  memSize       : Nat              -- R38
  statusDraws   : Nat              -- the model's own: free values of `status` drawn so far (log 3)
  deriving DecidableEq, Repr

/-- A step never ends the model with a fault: every fault the spec describes is TAKEN, which is a next state with the
run state Halted-Fault (60_exceptions.md R346, R351; log 8). So there is no constructor. -/
inductive Fault where
  deriving DecidableEq, Repr

/-- Why a step has no next state. -/
inductive Refusal where
  /-- Raised by an arm of `exec` whose instruction has no meaning in the model; no arm does. Safe. -/
  | notModelled (mnemonic : String)
  /-- Raised by `step` in the pipelined models when the control-word layout is not admissible: 93 U5 keeps such a table
  outside the model ("`refuse`"), and construction refuses it. Safe (log 7). -/
  | layoutNotAdmissible
  deriving DecidableEq, Repr

/-- The block right after construction with a memory of `memSize` bytes: both memories 0, the toggles true, and the
reset values with `initial_pc` 0 (49_host_interface.md R322). -/
def State.fresh (memSize : Nat) (model : Model) (layout : CwLayout) (delay : Delay) : State where
  regs := Vector.replicate 32 0
  pc := 0
  status := 0
  imem := []
  dmem := []
  ifid := .zero
  idex := .zero
  exmem := .zero
  memwb := .zero
  runState := .ready
  faultRecord := .cleared
  cycleCount := 0
  retiredCount := 0
  stallCount := 0
  flushCount := 0
  model := model
  stallsEn := true
  flushesEn := true
  forwardingEn := true
  layout := layout
  delay := delay
  memSize := memSize
  statusDraws := 0

/-- The machine right after reset: `reset(General, 0)` of a block constructed with 1024 bytes, the default layout and
the default delays (R40, R381; the arguments are log 6). -/
def State.reset : State := State.fresh 1024 .general CwLayout.default Delay.default

end Sys2Proof.Machine
end

