-- ==== Sys2Proof/Machine/ControlWord.lean ====
section
/-! DEFINITION. The control-word generator and the ALU (45_control_word.md R190 to R203). -/

namespace Sys2Proof.Machine

/-- The seven control fields by value (R190). The packed word is made and taken apart through a layout. -/
structure Control where
  brWr   : Nat
  memWr  : Nat
  aluSrc : Nat
  resSrc : Nat
  immSrc : Nat
  pcSrc  : Nat
  aluCtr : Nat
  deriving DecidableEq, Repr

/-- Every field 0: the invalid instruction and the bubble (R201). -/
def Control.zero : Control := ⟨0, 0, 0, 0, 0, 0, 0⟩

/-! ## Layouts (R191, R203) -/

/-- `extract(w, {p, n}) = (w >> p) & (2^n - 1)` (R191). -/
def extract (cw : Nat) (f : FieldPos) : Nat := (cw >>> f.position) % 2 ^ f.width

/-- The fields of a packed word, a natural number of any size (log 19). -/
def unpack (l : CwLayout) (cw : Nat) : Control where
  brWr   := extract cw l.brWr
  memWr  := extract cw l.memWr
  aluSrc := extract cw l.aluSrc
  resSrc := extract cw l.resSrc
  immSrc := extract cw l.immSrc
  pcSrc  := extract cw l.pcSrc
  aluCtr := extract cw l.aluCtr

/-- The packed word: the sum over the seven fields of `value << position` (R203). -/
def pack (l : CwLayout) (c : Control) : Nat :=
  c.brWr <<< l.brWr.position + c.memWr <<< l.memWr.position + c.aluSrc <<< l.aluSrc.position
    + c.resSrc <<< l.resSrc.position + c.immSrc <<< l.immSrc.position + c.pcSrc <<< l.pcSrc.position
    + c.aluCtr <<< l.aluCtr.position

/-- The entries of a layout. -/
def layoutEntries (l : CwLayout) : List FieldPos :=
  [l.aluCtr, l.resSrc, l.immSrc, l.pcSrc, l.aluSrc, l.brWr, l.memWr]

/-- Two fields share no bit (R203). -/
def fieldsDisjoint (f g : FieldPos) : Bool :=
  decide (f.position + f.width ≤ g.position) || decide (g.position + g.width ≤ f.position)

/-- The minimum widths of R193 to R199. -/
def layoutWideEnough (l : CwLayout) : Bool :=
  decide (4 ≤ l.aluCtr.width) && decide (2 ≤ l.resSrc.width) && decide (2 ≤ l.immSrc.width)
    && decide (3 ≤ l.pcSrc.width) && decide (1 ≤ l.aluSrc.width) && decide (1 ≤ l.brWr.width)
    && decide (1 ≤ l.memWr.width)

/-- An admissible layout (R203). -/
def layoutAdmissible (l : CwLayout) : Bool :=
  layoutWideEnough l && decide ((layoutEntries l).Pairwise (fun f g => fieldsDisjoint f g = true))

/-! ## The generator (R193 to R201) -/

/-- A register-writing ALU instruction: `ALUctr` and `ALUsrc` say the rest (R200). -/
def Control.aluOp (aluSrc aluCtr : Nat) : Control :=
  { Control.zero with brWr := 1, aluSrc := aluSrc, aluCtr := aluCtr }

/-- The table of R200 by field value. -/
def decodeControl : Instr → Control
  | .add _ _ _   => .aluOp 0 0
  | .sub _ _ _   => .aluOp 0 1
  | .and _ _ _   => .aluOp 0 2
  | .or _ _ _    => .aluOp 0 3
  | .xor _ _ _   => .aluOp 0 4
  | .slt _ _ _   => .aluOp 0 5
  | .sltu _ _ _  => .aluOp 0 6
  | .sll _ _ _   => .aluOp 0 7
  | .srl _ _ _   => .aluOp 0 8
  | .sra _ _ _   => .aluOp 0 9
  | .addi _ _ _  => .aluOp 1 0
  | .andi _ _ _  => .aluOp 1 2
  | .ori _ _ _   => .aluOp 1 3
  | .xori _ _ _  => .aluOp 1 4
  | .slti _ _ _  => .aluOp 1 5
  | .sltiu _ _ _ => .aluOp 1 6
  | .slli _ _ _  => .aluOp 1 7
  | .srli _ _ _  => .aluOp 1 8
  | .srai _ _ _  => .aluOp 1 9
  | .lw _ _ _    => { Control.zero with brWr := 1, aluSrc := 1, resSrc := 1 }
  | .sw _ _ _    => { Control.zero with memWr := 1, aluSrc := 1, immSrc := 1 }
  | .beq _ _ _   => { Control.zero with immSrc := 2, pcSrc := 1, aluCtr := 1 }
  | .bne _ _ _   => { Control.zero with immSrc := 2, pcSrc := 2, aluCtr := 1 }
  | .jal _ _     => { Control.zero with brWr := 1, resSrc := 2, immSrc := 3, pcSrc := 3 }
  | .jalr _ _ _  => { Control.zero with brWr := 1, aluSrc := 1, resSrc := 2, pcSrc := 4 }

/-- `decode_control`: the packed word under a layout, 0 for the invalid instruction (R200, R201). -/
def controlWord (l : CwLayout) : Decoded → Nat
  | .instr i   => pack l (decodeControl i)
  | .invalid _ => 0

/-! ## The ALU (R202) -/

/-- The 32-bit result of each `ALUctr` code; a code that is never generated gives 0 (R193, R202). -/
def alu (ctr : Nat) (a b : Word) : Word :=
  match ctr with
  | 0 => a + b
  | 1 => a - b
  | 2 => a &&& b
  | 3 => a ||| b
  | 4 => a ^^^ b
  | 5 => conditionWord (signedLess a b)
  | 6 => conditionWord (unsignedLess a b)
  | 7 => a <<< (b.extractLsb' 0 5).toNat
  | 8 => a >>> (b.extractLsb' 0 5).toNat
  | 9 => a.sshiftRight (b.extractLsb' 0 5).toNat
  | _ => 0

end Sys2Proof.Machine
end

