-- ==== Sys2Proof/Machine/Ops.lean ====
section
/-! DEFINITION. The named operations over memory, registers, pc and run state that every meaning uses
(10_state.md, 20_memory.md, 60_exceptions.md). -/

namespace Sys2Proof.Machine

/-! ## Byte arrays (20_memory.md R52, R53) -/

/-- One byte of a byte array. The list is sorted, so the search stops at the first greater address. -/
def readByte : Memory → Nat → Byte
  | [], _ => unlistedByte
  | (k, x) :: rest, a => if a < k then unlistedByte else if a = k then x else readByte rest a

/-- Writing one byte, keeping the canonical form: sorted, and no entry holds the unlisted byte. -/
def writeByte : Memory → Nat → Byte → Memory
  | [], a, v => if v = unlistedByte then [] else [(a, v)]
  | (k, x) :: rest, a, v =>
    if k < a then (k, x) :: writeByte rest a v
    else if k = a then (if v = unlistedByte then rest else (a, v) :: rest)
    else (if v = unlistedByte then (k, x) :: rest else (a, v) :: (k, x) :: rest)

/-- The canonical form: addresses strictly rising, and no entry equal to what an unlisted address reads as. -/
def Memory.wf (m : Memory) : Bool :=
  decide (m.Pairwise (fun c d => c.1 < d.1)) && m.all (fun c => decide (c.2 ≠ unlistedByte))

/-- Every listed address lies below `size`. -/
def Memory.below (m : Memory) (size : Nat) : Bool := m.all (fun c => decide (c.1 < size))

/-- The little-endian word at `a` (R52). -/
def readWord (m : Memory) (a : Nat) : Word :=
  wordOfBytes (readByte m a) (readByte m (a + 1)) (readByte m (a + 2)) (readByte m (a + 3))

/-- The little-endian store of a word at `a` (R53). -/
def writeWord (m : Memory) (a : Nat) (v : Word) : Memory :=
  writeByte (writeByte (writeByte (writeByte m a (byteOfWord v 0)) (a + 1) (byteOfWord v 1))
    (a + 2) (byteOfWord v 2)) (a + 3) (byteOfWord v 3)

/-- The byte array that holds a byte string from address `a` on and 0 elsewhere (49_host_interface.md R323). -/
def memoryOfBytes : Nat → List Byte → Memory
  | _, [] => []
  | a, b :: rest => if b = unlistedByte then memoryOfBytes (a + 1) rest else (a, b) :: memoryOfBytes (a + 1) rest

/-- The checks of a word access, fetch or data: alignment first, then range, as natural numbers
(20_memory.md R54 to R56, 60_exceptions.md R344). -/
def accessFault (memSize : Nat) (a : Word) : FaultTag :=
  if a.extractLsb' 0 2 ≠ 0#2 then .alignment
  else if a.toNat + 3 ≥ memSize then .range
  else .none

/-! ## Registers (10_state.md R20, R21) -/

/-- `x[i]`: register 0 always reads 0 (R21). -/
def readReg (s : State) (r : RegIdx) : Word :=
  if r = 0#5 then 0 else s.regs[r.toNat]'r.isLt

/-- `x[i] <- v`: a write to register 0 is accepted and discarded (R21). -/
def writeReg (s : State) (r : RegIdx) (v : Word) : State :=
  { s with regs := if r = 0#5 then s.regs else s.regs.set r.toNat v r.isLt }

/-! ## The other updates of an instruction executed alone (00_scope.md R10) -/

/-- `pc <- t`. -/
def setPc (s : State) (t : Word) : State := { s with pc := t }

/-- The address after the instruction being executed, modulo 2^32 (10_state.md R24, R25). -/
def nextPc (s : State) : Word := s.pc + 4

/-- `MemWrite(a, 4, v)` after its checks (R53). -/
def storeWord (s : State) (a : Word) (v : Word) : State := { s with dmem := writeWord s.dmem a.toNat v }

/-- `MemRead(a, 4)` after its checks (R52). -/
def loadWord (s : State) (a : Word) : Word := readWord s.dmem a.toNat

/-- `IMemRead(a)` after its checks (R52). -/
def fetchWord (s : State) (a : Word) : Word := readWord s.imem a.toNat

def setRunState (s : State) (r : RunState) : State := { s with runState := r }

/-! ## Taking a fault and what comes after it

There is no handler, no saved pc and no return instruction (60_exceptions.md R350): the entry below is complete, and the
ways back to Ready are the host's reset and step_back (R352), in Machine/Calls.lean and Machine/Session.lean. -/

/-- Taking a fault (60_exceptions.md R346, 46_pipeline_stages.md R222): the run state becomes Halted-Fault and the
fault record is written; no register, no memory byte, not pc, no pipeline register and no counter changes. -/
def takeFault (s : State) (kind : FaultTag) (pc info : Word) : State :=
  { s with runState := .haltedFault, faultRecord := ⟨kind, pc, info⟩ }

end Sys2Proof.Machine
end

