-- ==== Sys2Proof/Machine/Hazard.lean ====
section
/-! DEFINITION. WB's result, the hazard detector, the forwarding multiplexers and the effective toggles
(46_pipeline_stages.md R212, R213; 47_hazard_forwarding.md R260 to R279). Every definition is a function of the
start-of-tick state (R210, R260). -/

namespace Sys2Proof.Machine

/-- `cw.F` for every field F (R191): a control word taken apart by the block's own layout. -/
def ctl (s : State) (cw : Nat) : Control := unpack s.layout cw

/-! ## Effective toggles (R212) -/

/-- A toggle counts as stored only in the General model. -/
def effectiveToggle (s : State) (stored : Bool) : Bool :=
  match s.model with
  | .general => stored
  | .pipelined => true
  | .singleCycle => true

def effStalls (s : State) : Bool := effectiveToggle s s.stallsEn
def effFlushes (s : State) : Bool := effectiveToggle s s.flushesEn
def effForwarding (s : State) : Bool := effectiveToggle s s.forwardingEn

/-! ## WB (R213, R222) -/

/-- `Result` (R213, R194). -/
def wbResult (s : State) : Word :=
  match (ctl s s.memwb.cw).resSrc with
  | 1 => s.memwb.memData
  | 2 => s.memwb.pcPlus4
  | _ => s.memwb.aluResult

/-- `wb_en` (R213). -/
def wbEn (s : State) : Bool :=
  s.memwb.valid && (ctl s s.memwb.cw).brWr == 1 && s.memwb.rd != 0#5

/-- Whether the tick that starts here is a halt tick (R222). -/
def haltTick (s : State) : Bool := s.memwb.valid && s.memwb.fault != .none

/-! ## ID inputs (R214) -/

/-- The slot in ID holds an instruction without a fetch fault (R214). -/
def idOk (s : State) : Bool := s.ifid.valid && s.ifid.fault == .none

/-- `d`, the decoded word of the slot in ID (R214). -/
def idDecoded (s : State) : Decoded := decode s.ifid.instr

/-- `ok and d is not invalid`, with the format when it holds (R261, R297). -/
def idFormat (s : State) : Option Format :=
  match idOk s, idDecoded s with
  | true, .instr i => some i.format
  | true, .invalid _ => none
  | false, _ => none

/-- Formats with a first source register (R261). -/
def formatHasRs1 : Format → Bool
  | .r | .i | .s | .b => true
  | .u | .j => false

/-- Formats with a second source register (R261). -/
def formatHasRs2 : Format → Bool
  | .r | .s | .b => true
  | .i | .u | .j => false

/-! ## Hazard detector (R261 to R265) -/

/-- `u1` (R261). -/
def usesRs1 (s : State) : Bool := (idFormat s).any formatHasRs1 && fieldRs1 s.ifid.instr != 0#5

/-- `u2` (R261). -/
def usesRs2 (s : State) : Bool := (idFormat s).any formatHasRs2 && fieldRs2 s.ifid.instr != 0#5

/-- `match(P)` for an in-flight destination (R262). The producer's fault tag is not looked at. -/
def hazardMatch (s : State) (valid : Bool) (cw : Nat) (rd : RegIdx) : Bool :=
  valid && (ctl s cw).brWr == 1 && rd != 0#5
    && ((usesRs1 s && rd == fieldRs1 s.ifid.instr) || (usesRs2 s && rd == fieldRs2 s.ifid.instr))

def matchIDEX (s : State) : Bool := hazardMatch s s.idex.valid s.idex.cw s.idex.rd
def matchEXMEM (s : State) : Bool := hazardMatch s s.exmem.valid s.exmem.cw s.exmem.rd

/-- `need_stall`: the load-use hazard with forwarding on, any dependency on EX or MEM with forwarding off
(R263, R264). -/
def needStall (s : State) : Bool :=
  if effForwarding s then matchIDEX s && (ctl s s.idex.cw).resSrc == 1
  else matchIDEX s || matchEXMEM s

/-- `stall` (R265). -/
def stall (s : State) : Bool := effStalls s && needStall s

/-! ## Forwarding multiplexers (R270 to R273) -/

/-- `v`: the slot in EX holds an instruction without a fault (R217, R270). -/
def exValid (s : State) : Bool := s.idex.valid && s.idex.fault == .none

/-- The control word of the slot in EX, taken apart (R216, R270). -/
def exCtl (s : State) : Control := ctl s s.idex.cw

def useA (s : State) : Bool := exValid s && (exCtl s).pcSrc != 3
def useB (s : State) : Bool := exValid s && (exCtl s).aluSrc == 0 && (exCtl s).pcSrc != 3
def useM (s : State) : Bool := exValid s && (exCtl s).memWr == 1

/-- The selector codes: 0 no substitution, 1 the result in EX/MEM, 2 the result in MEM/WB (R35, R271). Code 3 is
never produced, so it has no constructor. -/
inductive Selector where
  | noForward
  | fromExMem
  | fromMemWb
  deriving DecidableEq, Repr

/-- `sel(u, r)`: nearest stage first (R271). -/
def selector (s : State) (use : Bool) (r : RegIdx) : Selector :=
  if !effForwarding s || !use || r == 0#5 then .noForward
  else if s.exmem.valid && (ctl s s.exmem.cw).brWr == 1 && s.exmem.rd == r then .fromExMem
  else if s.memwb.valid && (ctl s s.memwb.cw).brWr == 1 && s.memwb.rd == r then .fromMemWb
  else .noForward

def controlForwardA (s : State) : Selector := selector s (useA s) s.idex.rs1Idx
def controlForwardB (s : State) : Selector := selector s (useB s) s.idex.rs2Idx
def controlForwardM (s : State) : Selector := selector s (useM s) s.idex.rs2Idx

/-- `fwd_mem` (R272). -/
def fwdMem (s : State) : Word :=
  if (ctl s s.exmem.cw).resSrc = 2 then s.exmem.pcPlus4 else s.exmem.aluResult

/-- `ForwardX` (R272). -/
def forwardValue (s : State) : Selector → Word
  | .noForward => 0
  | .fromExMem => fwdMem s
  | .fromMemWb => wbResult s

/-- The output of one forwarding multiplexer (R273). -/
def forwardMux (s : State) (c : Selector) (operand : Word) : Word :=
  match c with
  | .noForward => operand
  | .fromExMem => forwardValue s .fromExMem
  | .fromMemWb => forwardValue s .fromMemWb

def srcA (s : State) : Word := forwardMux s (controlForwardA s) s.idex.opA
def regB (s : State) : Word := forwardMux s (controlForwardB s) s.idex.opB
def writeData (s : State) : Word := forwardMux s (controlForwardM s) s.idex.opB

end Sys2Proof.Machine
end

