-- ==== Sys2Proof/Machine/Operands.lean ====
section
/-! DEFINITION. Every operand form of the 25 instructions (30_encoding.md R83 to R86, R94; files 40 to 43). -/

namespace Sys2Proof.Machine

/-- A source register operand (10_state.md R20). -/
def regOperand (s : State) (r : RegIdx) : Word := readReg s r

/-- The I- and S-immediate, sign-extended from 12 bits (R83, R84). -/
def immOperand (imm : BitVec 12) : Word := imm.signExtend 32

/-- A shift amount held in a register: bits 4:0 (40_alu_register.md R122, R126, R127). -/
def regShiftAmount (s : State) (r : RegIdx) : Nat := ((readReg s r).extractLsb' 0 5).toNat

/-- A shift amount held in the instruction (30_encoding.md R94). -/
def immShiftAmount (shamt : BitVec 5) : Nat := shamt.toNat

/-- Base plus displacement, modulo 2^32: the one addressing mode of LW and SW (42_load_store.md R160, R161). -/
def effectiveAddress (s : State) (rs1 : RegIdx) (imm : BitVec 12) : Word := readReg s rs1 + immOperand imm

/-- The target of a branch, relative to its own address (43_control_transfer.md R170, R171). -/
def branchTarget (pc : Word) (imm : BitVec 13) : Word := pc + imm.signExtend 32

/-- The target of JAL (R172). -/
def jumpTarget (pc : Word) (imm : BitVec 21) : Word := pc + imm.signExtend 32

/-- Clearing bit 0 of a jump target (R173). -/
def clearBit0 (t : Word) : Word := t &&& 0xFFFFFFFE#32

/-- The target of JALR: register plus displacement with bit 0 cleared (R173). -/
def registerTarget (s : State) (rs1 : RegIdx) (imm : BitVec 12) : Word :=
  clearBit0 (readReg s rs1 + immOperand imm)

/-- The link value of JAL and JALR (R172, R173). -/
def linkValue (s : State) : Word := s.pc + 4

end Sys2Proof.Machine
end

