-- ==== Sys2Proof/Machine/Pipeline.lean ====
section
/-! DEFINITION. The tick, stage by stage, and the clock edge (46_pipeline_stages.md R210 to R229). -/

namespace Sys2Proof.Machine

/-! ## MEM stage (R219, R220) -/

/-- The instruction in MEM is a load or a store (R219). -/
def memIsLoad (s : State) : Bool := (ctl s s.exmem.cw).resSrc == 1
def memIsStore (s : State) : Bool := (ctl s s.exmem.cw).memWr == 1

/-- MEM has an access to make: a valid slot with no fault that is a load or a store (R219). -/
def memActive (s : State) : Bool :=
  s.exmem.valid && s.exmem.fault == .none && (memIsLoad s || memIsStore s)

/-- `mem_fault` (R219). -/
def memFault (s : State) : FaultTag :=
  if memActive s then accessFault s.memSize s.exmem.aluResult else s.exmem.fault

/-- `mem_fault_info` (R219), 0 where there is no fault (log 18). -/
def memFaultInfo (s : State) : Word :=
  if memActive s then (if memFault s = .none then 0 else s.exmem.aluResult) else s.exmem.faultInfo

/-- `mem_data`: the data memory as it is at the start of the tick (R219). -/
def memData (s : State) : Word :=
  if memActive s && memFault s == .none && memIsLoad s then loadWord s s.exmem.aluResult else 0

/-- The edge performs a store: MEM found one with no fault (R219, R227). -/
def memStores (s : State) : Bool := memActive s && memFault s == .none && memIsStore s

/-- `MEMWB.in` (R220). -/
def memwbIn (s : State) : MEMWB where
  valid     := s.exmem.valid
  fault     := memFault s
  faultInfo := memFaultInfo s
  pc        := s.exmem.pc
  pcPlus4   := s.exmem.pcPlus4
  cw        := s.exmem.cw
  rd        := s.exmem.rd
  aluResult := s.exmem.aluResult
  memData   := memData s

/-! ## EX stage (R216 to R218) -/

/-- `SrcB` (R216). -/
def srcB (s : State) : Word := if (exCtl s).aluSrc = 1 then s.idex.imm else regB s

/-- `ALU_result` (R216). -/
def aluResult (s : State) : Word := alu (exCtl s).aluCtr (srcA s) (srcB s)

/-- `ALU_zero` (R216, R202). -/
def aluZero (s : State) : Bool := isZero (aluResult s)

/-- `BranchTaken` (R217). -/
def branchTaken (s : State) : Bool :=
  exValid s &&
    (match (exCtl s).pcSrc with
      | 1 => aluZero s
      | 2 => !aluZero s
      | 3 => true
      | 4 => true
      | _ => false)

/-- `PC_branch` (R217). -/
def pcBranch (s : State) : Word := s.idex.pc + s.idex.imm

/-- `PC_target` (R217). -/
def pcTarget (s : State) : Word := if (exCtl s).pcSrc = 4 then clearBit0 (aluResult s) else pcBranch s

/-- `flush` (47_hazard_forwarding.md R267). -/
def flush (s : State) : Bool := effFlushes s && branchTaken s

/-- `EXMEM.in` (R218). -/
def exmemIn (s : State) : EXMEM where
  valid     := s.idex.valid
  fault     := s.idex.fault
  faultInfo := s.idex.faultInfo
  pc        := s.idex.pc
  pcPlus4   := s.idex.pcPlus4
  cw        := s.idex.cw
  rd        := s.idex.rd
  aluResult := aluResult s
  storeData := writeData s

/-! ## ID stage (R214, R215) -/

/-- The register file as ID reads it: write-through from WB, except in a halt tick (R214). -/
def rfRead (s : State) (r : RegIdx) : Word :=
  if r = 0#5 then 0
  else if wbEn s && s.memwb.rd == r && !haltTick s then wbResult s
  else readReg s r

/-- `cw_id` (R214). -/
def cwId (s : State) : Nat := if idOk s then controlWord s.layout (idDecoded s) else 0

/-- `id_fault` (R214). -/
def idFault (s : State) : FaultTag :=
  if idOk s then
    (match idDecoded s with
      | .instr _ => .none
      | .invalid _ => .decode)
  else s.ifid.fault

/-- `id_fault_info` (R214), 0 where there is no fault (log 18). -/
def idFaultInfo (s : State) : Word :=
  if idOk s then
    (match idDecoded s with
      | .instr _ => 0
      | .invalid _ => s.ifid.instr)
  else s.ifid.faultInfo

/-- The immediate an `ImmSrc` code selects (R195); a code above 3 exists only in a layout wider than the minimum, is
never generated, and acts as 0 (log 10). -/
def selectImm (code : Nat) (w : Word) : Word :=
  match code with
  | 1 => immS w
  | 2 => immB w
  | 3 => immJ w
  | _ => immI w

/-- `ImmExt` (R214). -/
def immExt (s : State) : Word := selectImm (ctl s (cwId s)).immSrc s.ifid.instr

/-- `IDEX.in` (R215). -/
def idexIn (s : State) : IDEX where
  valid     := s.ifid.valid
  fault     := idFault s
  faultInfo := idFaultInfo s
  pc        := s.ifid.pc
  pcPlus4   := s.ifid.pcPlus4
  cw        := cwId s
  rs1Idx    := fieldRs1 s.ifid.instr
  rs2Idx    := fieldRs2 s.ifid.instr
  rd        := fieldRd s.ifid.instr
  opA       := rfRead s (fieldRs1 s.ifid.instr)
  opB       := rfRead s (fieldRs2 s.ifid.instr)
  imm       := immExt s

/-! ## IF stage (R221) -/

/-- `if_fault` (R221). -/
def ifFault (s : State) : FaultTag := accessFault s.memSize s.pc

/-- `Instr` (R221): 0 on a fetch fault. -/
def ifInstr (s : State) : Word := if ifFault s = .none then fetchWord s s.pc else 0

/-- `if_fault_info` (R221). -/
def ifFaultInfo (s : State) : Word := if ifFault s = .none then 0 else s.pc

/-- `PC_plus4` (R221). -/
def pcPlus4 (s : State) : Word := s.pc + 4

/-- `IFID.in` (R221). -/
def ifidIn (s : State) : IFID where
  valid     := true
  fault     := ifFault s
  faultInfo := ifFaultInfo s
  pc        := s.pc
  pcPlus4   := pcPlus4 s
  instr     := ifInstr s

/-! ## The clock edge (R223 to R228) -/

/-- `pc'` (R223): a taken transfer redirects whatever the flush toggle says. -/
def pcNext (s : State) : Word :=
  if branchTaken s then pcTarget s else if stall s then s.pc else pcPlus4 s

/-- `IFID.out'` (R224). -/
def ifidNext (s : State) : IFID :=
  if flush s then .zero else if stall s then s.ifid else ifidIn s

/-- `IDEX.out'` (R225). -/
def idexNext (s : State) : IDEX := if flush s || stall s then .zero else idexIn s

/-- The register file after the edge (R227). -/
def regsNext (s : State) : Vector Word 32 :=
  if wbEn s then (writeReg s s.memwb.rd (wbResult s)).regs else s.regs

/-- The data memory after the edge (R227). -/
def dmemNext (s : State) : Memory :=
  if memStores s then writeWord s.dmem s.exmem.aluResult.toNat s.exmem.storeData else s.dmem

/-- A count that goes up by one when its condition holds (R228). -/
def countIf (c : Bool) (n : Nat) : Nat := if c then n + 1 else n

/-- The clock edge of a tick that is not a halt tick (R223 to R228). `status` takes a free value (R27; log 1); a tick
from Infinite-Loop-Detected goes back to Ready (49_host_interface.md R328). -/
def clockEdge (s : State) : State where
  regs          := regsNext s
  pc            := pcNext s
  status        := Config.freeStatus s.statusDraws
  imem          := s.imem
  dmem          := dmemNext s
  ifid          := ifidNext s
  idex          := idexNext s
  exmem         := exmemIn s
  memwb         := memwbIn s
  runState      := .ready
  faultRecord   := s.faultRecord
  cycleCount    := s.cycleCount + 1
  retiredCount  := countIf s.memwb.valid s.retiredCount
  stallCount    := countIf (stall s && !flush s) s.stallCount
  flushCount    := countIf (flush s) s.flushCount
  model         := s.model
  stallsEn      := s.stallsEn
  flushesEn     := s.flushesEn
  forwardingEn  := s.forwardingEn
  layout        := s.layout
  delay         := s.delay
  memSize       := s.memSize
  statusDraws   := s.statusDraws + 1

/-- One tick of the block (R210, R211, R222; what it leaves of `status` is log 1 and log 2). -/
def tick (s : State) : State :=
  match s.runState with
  | .haltedFault => s
  | .ready => if haltTick s then takeFault s s.memwb.fault s.memwb.pc s.memwb.faultInfo else clockEdge s
  | .infiniteLoopDetected =>
    if haltTick s then takeFault s s.memwb.fault s.memwb.pc s.memwb.faultInfo else clockEdge s

/-- `n` ticks. -/
def ticks : Nat → State → State
  | 0, s => s
  | n + 1, s => ticks n (tick s)

end Sys2Proof.Machine
end

