-- ==== Sys2Proof/Machine/AluRegister.lean ====
section
/-! DEFINITION. The register-register ALU instructions, executed alone (40_alu_register.md R120 to R129). -/

namespace Sys2Proof.Machine

/-- Write a result to `rd` and go on to the next instruction (00_scope.md R10). -/
def writeResult (rd : RegIdx) (v : Word) (s : State) : Host.Outcome State Fault Refusal :=
  .next (setPc (writeReg s rd v) (nextPc s))

/-- R120. -/
def execAdd (rd rs1 rs2 : RegIdx) (s : State) : Host.Outcome State Fault Refusal :=
  writeResult rd (regOperand s rs1 + regOperand s rs2) s

/-- R121. -/
def execSub (rd rs1 rs2 : RegIdx) (s : State) : Host.Outcome State Fault Refusal :=
  writeResult rd (regOperand s rs1 - regOperand s rs2) s

/-- R122. -/
def execSll (rd rs1 rs2 : RegIdx) (s : State) : Host.Outcome State Fault Refusal :=
  writeResult rd (regOperand s rs1 <<< regShiftAmount s rs2) s

/-- R123. -/
def execSlt (rd rs1 rs2 : RegIdx) (s : State) : Host.Outcome State Fault Refusal :=
  writeResult rd (conditionWord (signedLess (regOperand s rs1) (regOperand s rs2))) s

/-- R124. -/
def execSltu (rd rs1 rs2 : RegIdx) (s : State) : Host.Outcome State Fault Refusal :=
  writeResult rd (conditionWord (unsignedLess (regOperand s rs1) (regOperand s rs2))) s

/-- R125. -/
def execXor (rd rs1 rs2 : RegIdx) (s : State) : Host.Outcome State Fault Refusal :=
  writeResult rd (regOperand s rs1 ^^^ regOperand s rs2) s

/-- R126. -/
def execSrl (rd rs1 rs2 : RegIdx) (s : State) : Host.Outcome State Fault Refusal :=
  writeResult rd (regOperand s rs1 >>> regShiftAmount s rs2) s

/-- R127. -/
def execSra (rd rs1 rs2 : RegIdx) (s : State) : Host.Outcome State Fault Refusal :=
  writeResult rd ((regOperand s rs1).sshiftRight (regShiftAmount s rs2)) s

/-- R128. -/
def execOr (rd rs1 rs2 : RegIdx) (s : State) : Host.Outcome State Fault Refusal :=
  writeResult rd (regOperand s rs1 ||| regOperand s rs2) s

/-- R129. -/
def execAnd (rd rs1 rs2 : RegIdx) (s : State) : Host.Outcome State Fault Refusal :=
  writeResult rd (regOperand s rs1 &&& regOperand s rs2) s

end Sys2Proof.Machine
end

