-- ==== Sys2Proof/Machine/AluImmediate.lean ====
section
/-! DEFINITION. The register-immediate ALU instructions, executed alone (41_alu_immediate.md R140 to R148). -/

namespace Sys2Proof.Machine

/-- R140. -/
def execAddi (rd rs1 : RegIdx) (imm : BitVec 12) (s : State) : Host.Outcome State Fault Refusal :=
  writeResult rd (regOperand s rs1 + immOperand imm) s

/-- R141. -/
def execSlti (rd rs1 : RegIdx) (imm : BitVec 12) (s : State) : Host.Outcome State Fault Refusal :=
  writeResult rd (conditionWord (signedLess (regOperand s rs1) (immOperand imm))) s

/-- R142: the immediate is sign-extended first and then read as unsigned. -/
def execSltiu (rd rs1 : RegIdx) (imm : BitVec 12) (s : State) : Host.Outcome State Fault Refusal :=
  writeResult rd (conditionWord (unsignedLess (regOperand s rs1) (immOperand imm))) s

/-- R143. -/
def execXori (rd rs1 : RegIdx) (imm : BitVec 12) (s : State) : Host.Outcome State Fault Refusal :=
  writeResult rd (regOperand s rs1 ^^^ immOperand imm) s

/-- R144. -/
def execOri (rd rs1 : RegIdx) (imm : BitVec 12) (s : State) : Host.Outcome State Fault Refusal :=
  writeResult rd (regOperand s rs1 ||| immOperand imm) s

/-- R145. -/
def execAndi (rd rs1 : RegIdx) (imm : BitVec 12) (s : State) : Host.Outcome State Fault Refusal :=
  writeResult rd (regOperand s rs1 &&& immOperand imm) s

/-- R146. -/
def execSlli (rd rs1 : RegIdx) (shamt : BitVec 5) (s : State) : Host.Outcome State Fault Refusal :=
  writeResult rd (regOperand s rs1 <<< immShiftAmount shamt) s

/-- R147. -/
def execSrli (rd rs1 : RegIdx) (shamt : BitVec 5) (s : State) : Host.Outcome State Fault Refusal :=
  writeResult rd (regOperand s rs1 >>> immShiftAmount shamt) s

/-- R148. -/
def execSrai (rd rs1 : RegIdx) (shamt : BitVec 5) (s : State) : Host.Outcome State Fault Refusal :=
  writeResult rd ((regOperand s rs1).sshiftRight (immShiftAmount shamt)) s

end Sys2Proof.Machine
end

