-- ==== Sys2Proof/Machine/ControlTransfer.lean ====
section
/-! DEFINITION. BEQ, BNE, JAL and JALR, executed alone (43_control_transfer.md R170 to R173). A bad target is no fault
of the transfer: it is found when the target is fetched. -/

namespace Sys2Proof.Machine

/-- Go to `target` if the condition holds, else to the next instruction (R170, R171). -/
def branchIf (taken : Bool) (target : Word) (s : State) : Host.Outcome State Fault Refusal :=
  .next (setPc s (if taken then target else nextPc s))

/-- Write the link value and go to `target` (R172, R173). -/
def jumpAndLink (rd : RegIdx) (target : Word) (s : State) : Host.Outcome State Fault Refusal :=
  .next (setPc (writeReg s rd (linkValue s)) target)

/-- R170. -/
def execBeq (rs1 rs2 : RegIdx) (imm : BitVec 13) (s : State) : Host.Outcome State Fault Refusal :=
  branchIf (regOperand s rs1 == regOperand s rs2) (branchTarget s.pc imm) s

/-- R171. -/
def execBne (rs1 rs2 : RegIdx) (imm : BitVec 13) (s : State) : Host.Outcome State Fault Refusal :=
  branchIf (regOperand s rs1 != regOperand s rs2) (branchTarget s.pc imm) s

/-- R172. -/
def execJal (rd : RegIdx) (imm : BitVec 21) (s : State) : Host.Outcome State Fault Refusal :=
  jumpAndLink rd (jumpTarget s.pc imm) s

/-- R173: the target comes from the old base register, before the link is written. -/
def execJalr (rd rs1 : RegIdx) (imm : BitVec 12) (s : State) : Host.Outcome State Fault Refusal :=
  jumpAndLink rd (registerTarget s rs1 imm) s

end Sys2Proof.Machine
end

