-- ==== Sys2Proof/Machine/LoadStore.lean ====
section
/-! DEFINITION. LW and SW, executed alone (42_load_store.md R160, R161). -/

namespace Sys2Proof.Machine

/-- The checks of a data access at `a` and then the access: a failing check takes the fault at the instruction's own
address with `fault_info` the address, and changes nothing else (R160, R161; 60_exceptions.md R342, R344, R346; log 8). -/
def dataAccess (a : Word) (s : State) (access : State) : Host.Outcome State Fault Refusal :=
  match accessFault s.memSize a with
  | .none => .next (setPc access (nextPc s))
  | kind => .next (takeFault s kind s.pc a)

/-- R160: the address comes from the old base, and a load to x0 still makes the checks. -/
def execLw (rd rs1 : RegIdx) (imm : BitVec 12) (s : State) : Host.Outcome State Fault Refusal :=
  dataAccess (effectiveAddress s rs1 imm) s (writeReg s rd (loadWord s (effectiveAddress s rs1 imm)))

/-- R161. -/
def execSw (rs2 rs1 : RegIdx) (imm : BitVec 12) (s : State) : Host.Outcome State Fault Refusal :=
  dataAccess (effectiveAddress s rs1 imm) s (storeWord s (effectiveAddress s rs1 imm) (regOperand s rs2))

end Sys2Proof.Machine
end

