-- ==== Sys2Proof/Machine/Reference.lean ====
section
/-! DEFINITION. The architectural reference: one instruction executed alone, in "one full pass" (00_scope.md R5, R11).
It is what the pipeline must compute (46_pipeline_stages.md R232). -/

namespace Sys2Proof.Machine

/-- Fetch at pc and execute: a fetch fault or an invalid word is taken at its own address (20_memory.md R55, R56;
30_encoding.md R91). -/
def fetchAndExec (s : State) : Host.Outcome State Fault Refusal :=
  match accessFault s.memSize s.pc with
  | .none =>
    match decode (fetchWord s s.pc) with
    | .instr i => exec i s
    | .invalid _ => .next (takeFault s .decode s.pc (fetchWord s s.pc))
  | kind => .next (takeFault s kind s.pc s.pc)

/-- One step of the reference: nothing in Halted-Fault (R211), else one instruction. -/
def referenceStep (s : State) : Host.Outcome State Fault Refusal :=
  match s.runState with
  | .haltedFault => .next s
  | .ready => fetchAndExec s
  | .infiniteLoopDetected => fetchAndExec (setRunState s .ready)

end Sys2Proof.Machine
end

