-- ==== Sys2Proof/Machine/Step.lean ====
section
/-! DEFINITION. One step of the machine (49_host_interface.md R326): a tick of the pipelined models, or one instruction
of the SingleCycle reference (log 4). -/

namespace Sys2Proof.Machine

/-- A tick under an admissible layout; the model has no tick under any other (93 U5; log 7). -/
def tickStep (s : State) : Host.Outcome State Fault Refusal :=
  if layoutAdmissible s.layout then .next (tick s) else .refused .layoutNotAdmissible

/-- The call `step` (R326): "one stage tick with hazard resolution for Pipelined/General". -/
def step (s : State) : Host.Outcome State Fault Refusal :=
  match s.model with
  | .singleCycle => referenceStep s
  | .pipelined => tickStep s
  | .general => tickStep s

/-- The instruction memory with the word of a table row at pc, and the model that executes one instruction a step
selected, so that the very next step fetches and runs exactly that instruction (log 5). -/
def State.withFetchWord (s : State) (nbits w : Nat) : State :=
  { s with
    imem := writeWord s.imem s.pc.toNat (BitVec.ofNat 32 (w % 2 ^ nbits))
    model := .singleCycle
    runState := .ready }

end Sys2Proof.Machine
end

