-- ==== Sys2Proof/Machine/Timed.lean ====
section
/-! DEFINITION. The timed datapath signal evaluator (48_timed_datapath.md R290 to R304): for every named signal of a
tick a value, a readiness time and an activity flag, and for the tick a critical-path time. An observer: nothing else
reads it (R302). What an inactive signal shows as its value is log 17. -/

namespace Sys2Proof.Machine

/-- The triple of R290. -/
structure Signal (α : Type) where
  value    : α
  readyAt  : Nat
  isActive : Bool
  deriving DecidableEq, Repr

/-- A signal without its value: what readiness is computed from. -/
structure Timing where
  readyAt  : Nat
  isActive : Bool
  deriving DecidableEq, Repr

def timing {α : Type} (x : Signal α) : Timing := ⟨x.readyAt, x.isActive⟩

/-- The latest readiness among active timings, 0 for none (R294). -/
def latest : List Timing → Nat
  | [] => 0
  | t :: rest => if t.isActive then max t.readyAt (latest rest) else latest rest

/-- A signal made by a component from its dependencies; an inactive one is ready at 0 (R294). -/
def madeBy {α : Type} (delay : Nat) (deps : List Timing) (active : Bool) (v : α) : Signal α :=
  ⟨v, if active then delay + latest deps else 0, active⟩

/-- An output of clocked state or a slice of one: ready at 0 (R293, R294). -/
def fromState {α : Type} (active : Bool) (v : α) : Signal α := ⟨v, 0, active⟩

/-- A slice of another signal: same readiness, same activity (R293, R297). -/
def sliceOf {α β : Type} (x : Signal α) (v : β) : Signal β := ⟨v, x.readyAt, x.isActive⟩

/-! ## WB (R300) -/

def sigResult (s : State) : Signal Word :=
  madeBy s.delay.mux [] (s.memwb.valid && s.memwb.fault == .none && (ctl s s.memwb.cw).brWr == 1) (wbResult s)

/-! ## MEM (R299) -/

def sigMemAddr (s : State) : Signal Word := fromState (memActive s) s.exmem.aluResult

def sigMemWData (s : State) : Signal Word :=
  fromState (s.exmem.valid && s.exmem.fault == .none && memIsStore s) s.exmem.storeData

def sigMemRData (s : State) : Signal Word :=
  madeBy s.delay.dmem [timing (sigMemAddr s)] (memActive s && memIsLoad s && memFault s == .none) (memData s)

/-! ## ID (R297) -/

/-- `dv`, and the format is one of those given. -/
def idFormatIn (s : State) (p : Format → Bool) : Bool := (idFormat s).any p

/-- The instruction in ID is one of the shift-immediate instructions (R297). -/
def idShiftImm (s : State) : Bool :=
  match idOk s, idDecoded s with
  | true, .instr (.slli _ _ _) => true
  | true, .instr (.srli _ _ _) => true
  | true, .instr (.srai _ _ _) => true
  | _, _ => false

def formatHasRd : Format → Bool
  | .r | .i | .j => true
  | .s | .b | .u => false

def formatHasImm : Format → Bool
  | .i | .s | .b | .j => true
  | .r | .u => false

def formatIsR : Format → Bool
  | .r => true
  | .i | .s | .b | .u | .j => false

def sigOpcode (s : State) : Signal (BitVec 7) := fromState (idOk s) (fieldOpcode s.ifid.instr)

def sigFunct3 (s : State) : Signal (BitVec 3) := fromState (idFormatIn s formatHasRs1) (fieldFunct3 s.ifid.instr)

def sigFunct7 (s : State) : Signal (BitVec 7) :=
  fromState (idFormatIn s formatIsR || idShiftImm s) (fieldFunct7 s.ifid.instr)

def sigRs1 (s : State) : Signal RegIdx := fromState (idFormatIn s formatHasRs1) (fieldRs1 s.ifid.instr)

def sigRs2 (s : State) : Signal RegIdx := fromState (idFormatIn s formatHasRs2) (fieldRs2 s.ifid.instr)

def sigRd (s : State) : Signal RegIdx := fromState (idFormatIn s formatHasRd) (fieldRd s.ifid.instr)

def sigControlWord (s : State) : Signal Nat :=
  madeBy s.delay.ctrl [timing (sigOpcode s), timing (sigFunct3 s), timing (sigFunct7 s)] (idOk s) (cwId s)

/-- One of the seven fields, a slice of `ControlWord`. -/
def sigField (s : State) (f : Control → Nat) : Signal Nat := sliceOf (sigControlWord s) (f (ctl s (cwId s)))

def sigImmExt (s : State) : Signal Word :=
  madeBy s.delay.imm [timing (sigControlWord s)] (idFormatIn s formatHasImm) (immExt s)

/-- `RD1` and `RD2` wait for `Result` too when the write-through supplies the value. -/
def sigRegRead (s : State) (field : Signal RegIdx) : Signal Word :=
  madeBy s.delay.rf
    (timing field :: (if wbEn s && s.memwb.rd == field.value then [timing (sigResult s)] else []))
    field.isActive (rfRead s field.value)

def sigRD1 (s : State) : Signal Word := sigRegRead s (sigRs1 s)

def sigRD2 (s : State) : Signal Word := sigRegRead s (sigRs2 s)

def sigStall (s : State) : Signal Bool :=
  madeBy s.delay.haz [timing (sigOpcode s), timing (sigRs1 s), timing (sigRs2 s)] true (stall s)

/-! ## EX (R298) -/

def sigControlForwardA (s : State) : Signal Selector :=
  madeBy s.delay.fwd [] (effForwarding s && useA s) (controlForwardA s)

def sigControlForwardB (s : State) : Signal Selector :=
  madeBy s.delay.fwd [] (effForwarding s && useB s) (controlForwardB s)

def sigControlForwardM (s : State) : Signal Selector :=
  madeBy s.delay.fwd [] (effForwarding s && useM s) (controlForwardM s)

/-- A `Forward` signal: it waits for `Result` when its selector is 2, and is active when its selector is not 0. -/
def sigForward (s : State) (c : Signal Selector) : Signal Word :=
  madeBy s.delay.mux (timing c :: (if c.value = .fromMemWb then [timing (sigResult s)] else []))
    (c.value != .noForward) (forwardValue s c.value)

def sigForwardA (s : State) : Signal Word := sigForward s (sigControlForwardA s)
def sigForwardB (s : State) : Signal Word := sigForward s (sigControlForwardB s)
def sigForwardM (s : State) : Signal Word := sigForward s (sigControlForwardM s)

def sigSrcA (s : State) : Signal Word :=
  madeBy s.delay.mux [timing (sigControlForwardA s), timing (sigForwardA s)] (useA s) (srcA s)

def sigRegB (s : State) : Signal Word :=
  madeBy s.delay.mux [timing (sigControlForwardB s), timing (sigForwardB s)] (useB s) (regB s)

def sigWriteData (s : State) : Signal Word :=
  madeBy s.delay.mux [timing (sigControlForwardM s), timing (sigForwardM s)] (useM s) (writeData s)

def sigSrcB (s : State) : Signal Word :=
  madeBy s.delay.mux [timing (sigRegB s)] (exValid s && (exCtl s).pcSrc != 3) (srcB s)

def sigAluResult (s : State) : Signal Word :=
  madeBy s.delay.alu [timing (sigSrcA s), timing (sigSrcB s)] (exValid s && (exCtl s).pcSrc != 3) (aluResult s)

def sigAluZero (s : State) : Signal Bool :=
  madeBy s.delay.zero [timing (sigAluResult s)]
    (exValid s && ((exCtl s).pcSrc == 1 || (exCtl s).pcSrc == 2)) (aluZero s)

def sigPcBranch (s : State) : Signal Word :=
  madeBy s.delay.add [] (exValid s && ((exCtl s).pcSrc == 1 || (exCtl s).pcSrc == 2 || (exCtl s).pcSrc == 3))
    (pcBranch s)

/-- `PC_target` waits for the one input the control word selects (90_conflicts.md C13). -/
def sigPcTarget (s : State) : Signal Word :=
  madeBy s.delay.mux
    (match (exCtl s).pcSrc with
      | 1 => [timing (sigPcBranch s)]
      | 2 => [timing (sigPcBranch s)]
      | 3 => [timing (sigPcBranch s)]
      | 4 => [timing (sigAluResult s)]
      | _ => [])
    (exValid s && (exCtl s).pcSrc != 0) (pcTarget s)

def sigBranchTaken (s : State) : Signal Bool :=
  madeBy s.delay.br [timing (sigAluZero s)] (exValid s && (exCtl s).pcSrc != 0) (branchTaken s)

def sigFlush (s : State) : Signal Bool := madeBy s.delay.haz [timing (sigBranchTaken s)] true (flush s)

/-! ## IF (R296) -/

def sigPc (s : State) : Signal Word := fromState true s.pc

def sigPcPlus4 (s : State) : Signal Word := madeBy s.delay.add [timing (sigPc s)] true (pcPlus4 s)

def sigInstr (s : State) : Signal Word :=
  madeBy s.delay.imem [timing (sigPc s)] (ifFault s == .none) (ifInstr s)

/-- `PC_next`, "the value `pc'`" of R223. DESIGN CHOICE (log 17): R223 speaks of ticks that are not halt ticks only, and the
model shows its formula in a halt tick and in Halted-Fault too, where pc itself does not change (R211, R222). -/
def sigPcNext (s : State) : Signal Word :=
  madeBy s.delay.mux
    [timing (sigPcPlus4 s), timing (sigStall s), timing (sigBranchTaken s), timing (sigPcTarget s)] true (pcNext s)

/-! ## All signals, the critical path and the snapshot (R295, R303) -/

/-- Every named signal of a tick, by stage (R296 to R300). -/
structure Signals where
  pc              : Signal Word
  pcPlus4         : Signal Word
  instr           : Signal Word
  pcNext          : Signal Word
  opcode          : Signal (BitVec 7)
  funct3          : Signal (BitVec 3)
  funct7          : Signal (BitVec 7)
  rs1             : Signal RegIdx
  rs2             : Signal RegIdx
  rd              : Signal RegIdx
  controlWord     : Signal Nat
  aluCtr          : Signal Nat
  resSrc          : Signal Nat
  immSrc          : Signal Nat
  pcSrc           : Signal Nat
  aluSrc          : Signal Nat
  brWr            : Signal Nat
  memWr           : Signal Nat
  immExt          : Signal Word
  rd1             : Signal Word
  rd2             : Signal Word
  stall           : Signal Bool
  controlForwardA : Signal Selector
  controlForwardB : Signal Selector
  controlForwardM : Signal Selector
  forwardA        : Signal Word
  forwardB        : Signal Word
  forwardM        : Signal Word
  srcA            : Signal Word
  regB            : Signal Word
  writeData       : Signal Word
  srcB            : Signal Word
  aluResult       : Signal Word
  aluZero         : Signal Bool
  pcBranch        : Signal Word
  pcTarget        : Signal Word
  branchTaken     : Signal Bool
  flush           : Signal Bool
  memAddr         : Signal Word
  memWData        : Signal Word
  memRData        : Signal Word
  result          : Signal Word
  deriving DecidableEq, Repr

/-- The evaluation of all signals from the start-of-tick state (R291). -/
def signals (s : State) : Signals where
  pc              := sigPc s
  pcPlus4         := sigPcPlus4 s
  instr           := sigInstr s
  pcNext          := sigPcNext s
  opcode          := sigOpcode s
  funct3          := sigFunct3 s
  funct7          := sigFunct7 s
  rs1             := sigRs1 s
  rs2             := sigRs2 s
  rd              := sigRd s
  controlWord     := sigControlWord s
  aluCtr          := sigField s Control.aluCtr
  resSrc          := sigField s Control.resSrc
  immSrc          := sigField s Control.immSrc
  pcSrc           := sigField s Control.pcSrc
  aluSrc          := sigField s Control.aluSrc
  brWr            := sigField s Control.brWr
  memWr           := sigField s Control.memWr
  immExt          := sigImmExt s
  rd1             := sigRD1 s
  rd2             := sigRD2 s
  stall           := sigStall s
  controlForwardA := sigControlForwardA s
  controlForwardB := sigControlForwardB s
  controlForwardM := sigControlForwardM s
  forwardA        := sigForwardA s
  forwardB        := sigForwardB s
  forwardM        := sigForwardM s
  srcA            := sigSrcA s
  regB            := sigRegB s
  writeData       := sigWriteData s
  srcB            := sigSrcB s
  aluResult       := sigAluResult s
  aluZero         := sigAluZero s
  pcBranch        := sigPcBranch s
  pcTarget        := sigPcTarget s
  branchTaken     := sigBranchTaken s
  flush           := sigFlush s
  memAddr         := sigMemAddr s
  memWData        := sigMemWData s
  memRData        := sigMemRData s
  result          := sigResult s

/-- The timings of all signals, IF to WB. -/
def signalTimings (g : Signals) : List Timing :=
  [timing g.pc, timing g.pcPlus4, timing g.instr, timing g.pcNext]
  ++ [timing g.opcode, timing g.funct3, timing g.funct7, timing g.rs1, timing g.rs2, timing g.rd,
      timing g.controlWord, timing g.aluCtr, timing g.resSrc, timing g.immSrc, timing g.pcSrc, timing g.aluSrc,
      timing g.brWr, timing g.memWr, timing g.immExt, timing g.rd1, timing g.rd2, timing g.stall]
  ++ [timing g.controlForwardA, timing g.controlForwardB, timing g.controlForwardM, timing g.forwardA,
      timing g.forwardB, timing g.forwardM, timing g.srcA, timing g.regB, timing g.writeData, timing g.srcB,
      timing g.aluResult, timing g.aluZero, timing g.pcBranch, timing g.pcTarget, timing g.branchTaken,
      timing g.flush]
  ++ [timing g.memAddr, timing g.memWData, timing g.memRData, timing g.result]

/-- `critical_path_time`: the maximum readiness over all active signals of the tick (R295). -/
def criticalPathTime (s : State) : Nat := latest (signalTimings (signals s))

/-- The datapath snapshot (R303): every signal, the critical path, the four incoming and four outgoing copies and the
four counters. -/
structure Snapshot where
  signals          : Signals
  criticalPathTime : Nat
  ifidIn           : IFID
  idexIn           : IDEX
  exmemIn          : EXMEM
  memwbIn          : MEMWB
  ifidOut          : IFID
  idexOut          : IDEX
  exmemOut         : EXMEM
  memwbOut         : MEMWB
  cycleCount       : Nat
  retiredCount     : Nat
  stallCount       : Nat
  flushCount       : Nat
  deriving DecidableEq, Repr

/-- The snapshot between ticks is the evaluation of the tick about to be performed (R303). -/
def snapshot (s : State) : Snapshot where
  signals          := signals s
  criticalPathTime := criticalPathTime s
  ifidIn           := ifidIn s
  idexIn           := idexIn s
  exmemIn          := exmemIn s
  memwbIn          := memwbIn s
  ifidOut          := s.ifid
  idexOut          := s.idex
  exmemOut         := s.exmem
  memwbOut         := s.memwb
  cycleCount       := s.cycleCount
  retiredCount     := s.retiredCount
  stallCount       := s.stallCount
  flushCount       := s.flushCount

end Sys2Proof.Machine
end

