-- ==== Sys2Proof/Machine/Calls.lean ====
section
/-! DEFINITION. The host's calls on the block, each one atomic transition between ticks (49_host_interface.md R321 to
R327, R332; 70_reset_and_hazards.md R380 to R383). -/

namespace Sys2Proof.Machine

/-- Why a call has no effect (R332). -/
inductive CallError where
  | sizeUnsupported
  | layoutNotAdmissible
  | programTooLong
  | access (kind : FaultTag) (a : Word)
  | outsideMemory
  deriving DecidableEq, Repr

/-- A call's result: a value, or the reason it failed with no effect. -/
inductive CallResult (α : Type) where
  | ok (v : α)
  | failed (e : CallError)
  deriving DecidableEq, Repr

/-! ## Construction (R322) -/

/-- The constraint the spec puts on every memory size (R7). -/
def legalSize (n : Nat) : Bool := n % 4 == 0 && decide (4 ≤ n) && decide (n ≤ 2 ^ 32)

/-- `new(memory_size_bytes, model)`, with the configuration tables loaded: an unsupported size makes no instance (R322),
and neither does a layout that is not admissible (45_control_word.md R203). -/
def construct (memSize : Nat) (model : Model) (layout : CwLayout) (delay : Delay) : CallResult State :=
  if !(legalSize memSize && Config.sizeSupported memSize) then .failed .sizeUnsupported
  else if !layoutAdmissible layout then .failed .layoutNotAdmissible
  else .ok (State.fresh memSize model layout delay)

/-! ## Calls that change the block (R323 to R325) -/

/-- `load_program(bytes)`: clears the instruction memory and copies the bytes in from address 0; nothing else changes.
A string longer than the memory is refused with no effect (R323). -/
def loadProgram (bytes : List Byte) (s : State) : CallResult State :=
  if s.memSize < bytes.length then .failed .programTooLong
  else .ok { s with imem := memoryOfBytes 0 bytes }

/-- `reset(model, initial_pc)` (R324; 70_reset_and_hazards.md R380, R381): instruction memory, toggles, layout, delays
and memory size keep their values; `initial_pc` is not checked. -/
def hostReset (model : Model) (initialPc : Word) (s : State) : State :=
  { State.fresh s.memSize model s.layout s.delay with
    pc := initialPc
    imem := s.imem
    stallsEn := s.stallsEn
    flushesEn := s.flushesEn
    forwardingEn := s.forwardingEn
    statusDraws := s.statusDraws }

/-- The effect of `set_hazard_options(stalls, flushes, forwarding)`: a harmless no-op outside the General model (R325). -/
def setHazardOptions (stalls flushes forwarding : Bool) (s : State) : State :=
  match s.model with
  | .general => { s with stallsEn := stalls, flushesEn := flushes, forwardingEn := forwarding }
  | .pipelined => s
  | .singleCycle => s

/-- What `set_hazard_options` reports. `InvalidModelTransition`, "operation not meaningful for current model", is a report
and not an error (R325; 60_exceptions.md R353). -/
inductive HazardOptionsReport where
  | optionsSet
  | invalidModelTransition
  deriving DecidableEq, Repr

/-- The report of `set_hazard_options` in the model `m` (R325). -/
def hazardOptionsReport (m : Model) : HazardOptionsReport :=
  match m with
  | .general => .optionsSet
  | .pipelined => .invalidModelTransition
  | .singleCycle => .invalidModelTransition

/-- The call `set_hazard_options` as its caller sees it: the block after it and the report (R325, R353). -/
def setHazardOptionsCall (stalls flushes forwarding : Bool) (s : State) : State × HazardOptionsReport :=
  (setHazardOptions stalls flushes forwarding s, hazardOptionsReport s.model)

/-! ## The result of `step` (R229, R326)

The text is any value (93 U11); the structured result is what a text would be made from. -/

/-- What a `step` of a pipelined model reports. -/
inductive StepReport where
  | retired (pc : Word) (word : Word) (what : Decoded)
  | bubble
  | fault (record : FaultRecord)
  deriving DecidableEq, Repr

/-- The report of the tick about to be performed: the fault of a halt tick or of a halted block, else the instruction
in WB, else a bubble (R326). -/
def stepReport (s : State) : StepReport :=
  match s.runState, haltTick s, s.memwb.valid with
  | .haltedFault, _, _ => .fault s.faultRecord
  | _, true, _ => .fault ⟨s.memwb.fault, s.memwb.pc, s.memwb.faultInfo⟩
  | _, false, true => .retired s.memwb.pc (fetchWord s s.memwb.pc) (decode (fetchWord s s.memwb.pc))
  | _, false, false => .bubble

/-! ## Accessors (R327) -/

def readRegister (i : RegIdx) (s : State) : Word := readReg s i

/-- All 32 registers, `x0` first. -/
def allRegisters (s : State) : List Word := (List.range 32).map (fun n => readReg s (BitVec.ofNat 5 n))

/-- `write_register(i, v)`: "no-op for i=0" (R327, 10_state.md R21). -/
def writeRegister (i : RegIdx) (v : Word) (s : State) : State := writeReg s i v

/-- `read_word(addr)` of the data memory: a bad address is returned to the caller and changes nothing (R327). -/
def hostReadWord (a : Word) (s : State) : CallResult Word :=
  match accessFault s.memSize a with
  | .none => .ok (loadWord s a)
  | kind => .failed (.access kind a)

/-- `write_word(addr, v)` of the data memory (R327). -/
def hostWriteWord (a v : Word) (s : State) : CallResult State :=
  match accessFault s.memSize a with
  | .none => .ok (storeWord s a v)
  | kind => .failed (.access kind a)

/-- `read_byte_range` of the data memory: bytes need no alignment; a range that leaves the memory fails (log 15). -/
def readByteRange (start len : Nat) (s : State) : CallResult (List Byte) :=
  if start + len ≤ s.memSize then .ok ((List.range len).map (fun k => readByte s.dmem (start + k)))
  else .failed .outsideMemory

/-- The raw data-memory bytes. -/
def rawDataMemory (s : State) : List Byte := (List.range s.memSize).map (readByte s.dmem)

/-- The instruction-memory listing: address, word and decoded value in place of text (R98, log 16). -/
def instructionListing (s : State) : List (Nat × Word × Decoded) :=
  (List.range (s.memSize / 4)).map (fun k => (4 * k, readWord s.imem (4 * k), decode (readWord s.imem (4 * k))))

/-- `read_datapath_snapshot` (R303, R327). -/
def readDatapathSnapshot (s : State) : Snapshot := snapshot s

end Sys2Proof.Machine
end

