-- ==== Sys2Proof/Machine/Assembler.lean ====
section
/-! DEFINITION. The assembler at the boundary of the block (30_encoding.md R95 to R97; 49_host_interface.md R323, R331),
over lines already parsed: the text parser is outside the model (00_scope.md R6; log 16). It is a pure function of its
input. -/

namespace Sys2Proof.Machine

/-- The operand forms of the source text (R95). Immediates are signed numbers of any size; a target is a label. -/
inductive AsmOp where
  | regReg (name : Mnemonic) (rd rs1 rs2 : RegIdx)
  | regImm (name : Mnemonic) (rd rs1 : RegIdx) (imm : Int)
  | load   (rd : RegIdx) (imm : Int) (rs1 : RegIdx)
  | store  (rs2 : RegIdx) (imm : Int) (rs1 : RegIdx)
  | branch (name : Mnemonic) (rs1 rs2 : RegIdx) (label : String)
  | jal    (rd : RegIdx) (label : String)
  | jalr   (rd : RegIdx) (imm : Int) (rs1 : RegIdx)
  | j      (label : String)
  deriving DecidableEq, Repr

/-- One line: labels, and at most one instruction (R95). -/
structure AsmLine where
  labels : List String
  op     : Option AsmOp
  deriving DecidableEq, Repr

/-- `assemble`'s results: bytes, or a SyntaxError naming the offending line, counted from 0 (R96). -/
inductive AsmResult where
  | ok (bytes : List Byte)
  | syntaxError (line : Nat)
  deriving DecidableEq, Repr

/-- A signed number as an `n`-bit immediate, refused when it does not fit (R96). -/
def fitImm (n : Nat) (v : Int) : Option (BitVec n) :=
  if -(2 ^ (n - 1) : Int) ≤ v ∧ v < 2 ^ (n - 1) then some (BitVec.ofInt n v) else none

/-- A shift amount, 0 to 31 (R94). -/
def fitShamt (v : Int) : Option (BitVec 5) := if 0 ≤ v ∧ v < 32 then some (BitVec.ofInt 5 v) else none

/-- The byte offset of a label: that of the instruction it stands before (R96). DESIGN CHOICE (log 16), where R96 is silent:
the first of several definitions counts, and a label that stands before no instruction, after the last one, has the offset
one past the last instruction instead of being unresolvable. -/
def labelOffset : List AsmLine → Nat → String → Option Nat
  | [], _, _ => none
  | line :: rest, at4, name =>
    if line.labels.contains name then some at4
    else labelOffset rest (if line.op.isSome then at4 + 4 else at4) name

def asmRegReg (name : Mnemonic) (rd rs1 rs2 : RegIdx) : Option Instr :=
  match name with
  | .ADD => some (.add rd rs1 rs2)
  | .SUB => some (.sub rd rs1 rs2)
  | .SLL => some (.sll rd rs1 rs2)
  | .SLT => some (.slt rd rs1 rs2)
  | .SLTU => some (.sltu rd rs1 rs2)
  | .XOR => some (.xor rd rs1 rs2)
  | .SRL => some (.srl rd rs1 rs2)
  | .SRA => some (.sra rd rs1 rs2)
  | .OR => some (.or rd rs1 rs2)
  | .AND => some (.and rd rs1 rs2)
  | _ => none

def asmRegImm (name : Mnemonic) (rd rs1 : RegIdx) (imm : Int) : Option Instr :=
  match name with
  | .ADDI => (fitImm 12 imm).map (.addi rd rs1)
  | .SLTI => (fitImm 12 imm).map (.slti rd rs1)
  | .SLTIU => (fitImm 12 imm).map (.sltiu rd rs1)
  | .XORI => (fitImm 12 imm).map (.xori rd rs1)
  | .ORI => (fitImm 12 imm).map (.ori rd rs1)
  | .ANDI => (fitImm 12 imm).map (.andi rd rs1)
  | .SLLI => (fitShamt imm).map (.slli rd rs1)
  | .SRLI => (fitShamt imm).map (.srli rd rs1)
  | .SRAI => (fitShamt imm).map (.srai rd rs1)
  | _ => none

def asmBranch (name : Mnemonic) (rs1 rs2 : RegIdx) (imm : BitVec 13) : Option Instr :=
  match name with
  | .BEQ => some (.beq rs1 rs2 imm)
  | .BNE => some (.bne rs1 rs2 imm)
  | _ => none

/-- The immediate `L - p` of a transfer at offset `p` to a label at offset `L` (R96). -/
def relativeImm (n : Nat) (target here : Nat) : Option (BitVec n) := fitImm n ((target : Int) - (here : Int))

/-- `assemble_one` at offset `here`, with every label resolved by `find` (R96, R97). -/
def assembleOp (find : String → Option Nat) (here : Nat) : AsmOp → Option Instr
  | .regReg name rd rs1 rs2 => asmRegReg name rd rs1 rs2
  | .regImm name rd rs1 imm => asmRegImm name rd rs1 imm
  | .load rd imm rs1 => (fitImm 12 imm).map (.lw rd rs1)
  | .store rs2 imm rs1 => (fitImm 12 imm).map (.sw rs2 rs1)
  | .branch name rs1 rs2 label =>
    match find label with
    | some target => (relativeImm 13 target here).bind (asmBranch name rs1 rs2)
    | none => none
  | .jal rd label =>
    match find label with
    | some target => (relativeImm 21 target here).map (.jal rd)
    | none => none
  | .jalr rd imm rs1 => (fitImm 12 imm).map (.jalr rd rs1)
  | .j label =>
    match find label with
    | some target => (relativeImm 21 target here).map (.jal 0)
    | none => none

/-- The lines from number `k` on, the next instruction at offset `here`. DESIGN CHOICE (log 16), where R96 is silent: when
several lines offend, the SyntaxError names the first of them in source order. -/
def assembleFrom (find : String → Option Nat) : Nat → Nat → List AsmLine → AsmResult
  | _, _, [] => .ok []
  | k, here, line :: rest =>
    match line.op with
    | none => assembleFrom find (k + 1) here rest
    | some op =>
      match assembleOp find here op with
      | none => .syntaxError k
      | some i =>
        match assembleFrom find (k + 1) (here + 4) rest with
        | .ok bytes => .ok (bytesOfWord (encode i) ++ bytes)
        | .syntaxError n => .syntaxError n

/-- `assemble(text) -> bytes` over parsed lines (R96). -/
def assemble (lines : List AsmLine) : AsmResult := assembleFrom (labelOffset lines 0) 0 0 lines

/-- `disassemble(word)`, the structured value in place of its text (R98). -/
def disassemble (w : Word) : Decoded := decode w

/-- The result of `load_program_from_assembly`. -/
inductive AsmLoadResult where
  | loaded (r : CallResult State)
  | syntaxError (line : Nat)
  deriving DecidableEq, Repr

/-- `load_program_from_assembly`: nothing changes on a SyntaxError (R323). -/
def loadProgramFromAssembly (lines : List AsmLine) (s : State) : AsmLoadResult :=
  match assemble lines with
  | .ok bytes => .loaded (loadProgram bytes s)
  | .syntaxError k => .syntaxError k

end Sys2Proof.Machine
end

