-- ==== Sys2Proof/Machine/Session.lean ====
section
/-! DEFINITION. The host around the block: history and `step_back`, `steps_until`, and the parked block
(49_host_interface.md R328 to R330). None of it is state of the block (10_state.md R39). -/

namespace Sys2Proof.Machine

/-- A history entry: what `step_back` restores (R329), and the model's own draw count with it (log 13). -/
structure HistoryEntry where
  regs         : Vector Word 32
  pc           : Word
  status       : Word
  dmem         : Memory
  ifid         : IFID
  idex         : IDEX
  exmem        : EXMEM
  memwb        : MEMWB
  runState     : RunState
  faultRecord  : FaultRecord
  cycleCount   : Nat
  retiredCount : Nat
  stallCount   : Nat
  flushCount   : Nat
  statusDraws  : Nat
  deriving DecidableEq, Repr

/-- An entry, or the place of a reset made over older items, which no `step_back` of the model crosses (93 U3; log 13). -/
inductive HistoryItem where
  | entry (e : HistoryEntry)
  | resetMark
  deriving DecidableEq, Repr

/-- One instance as the host holds it: the block, the history with the most recent item first, and the history bound
(`none` for an unbounded one, 93 U3). -/
structure Session where
  block   : State
  history : List HistoryItem
  bound   : Option Nat
  deriving DecidableEq, Repr

/-- A host around a block just constructed. -/
def newSession (bound : Option Nat) (s : State) : Session := ⟨s, [], bound⟩

/-- The entry pushed before a forward step (R329). -/
def entryOf (s : State) : HistoryEntry :=
  ⟨s.regs, s.pc, s.status, s.dmem, s.ifid, s.idex, s.exmem, s.memwb, s.runState, s.faultRecord, s.cycleCount,
    s.retiredCount, s.stallCount, s.flushCount, s.statusDraws⟩

/-- Restoring an entry (R329): registers, pc, status, data memory, pipeline registers, counters, run state and fault
record. -/
def restoreEntry (e : HistoryEntry) (s : State) : State :=
  { s with
    regs := e.regs
    pc := e.pc
    status := e.status
    dmem := e.dmem
    ifid := e.ifid
    idex := e.idex
    exmem := e.exmem
    memwb := e.memwb
    runState := e.runState
    faultRecord := e.faultRecord
    cycleCount := e.cycleCount
    retiredCount := e.retiredCount
    stallCount := e.stallCount
    flushCount := e.flushCount
    statusDraws := e.statusDraws }

/-- The newest items a bound allows. -/
def withinBound : Option Nat → List HistoryItem → List HistoryItem
  | none, h => h
  | some n, h => h.take n

/-- `step()` of the host: push an entry, then one step of the block (R326, R329). A refused step changes nothing. -/
def sessionStep (x : Session) : Host.Outcome Session Fault Refusal :=
  match step x.block with
  | .next t => .next ⟨t, withinBound x.bound (.entry (entryOf x.block) :: x.history), x.bound⟩
  | .fault r => .fault r
  | .refused r => .refused r

/-- The results of `step_back`; `nothingToUndo` is the reported condition HistoryUnderflow (R329; 60_exceptions.md R353). -/
inductive BackResult where
  | restored (x : Session)
  | nothingToUndo
  | acrossReset
  deriving DecidableEq, Repr

/-- `step_back()`: "pops the most recent history entry and restores state; on empty history, returns a "nothing to undo"
result without mutating state" (R329). -/
def stepBack (x : Session) : BackResult :=
  match x.history with
  | [] => .nothingToUndo
  | .resetMark :: _ => .acrossReset
  | .entry e :: rest => .restored ⟨restoreEntry e x.block, rest, x.bound⟩

/-- The history after a reset, which pushes no entry (R329): a history with nothing in it stays empty, so that there is
still nothing to undo; anything else ends at the mark no `step_back` crosses (93 U3; log 13). -/
def historyAfterReset : List HistoryItem → List HistoryItem
  | [] => []
  | _ :: _ => [.resetMark]

/-- A reset through the host (R324). -/
def sessionReset (model : Model) (initialPc : Word) (x : Session) : Session :=
  ⟨hostReset model initialPc x.block, historyAfterReset x.history, x.bound⟩

/-- What loop detection compares: the block state except the counters (R328). -/
structure LoopKey where
  regs   : Vector Word 32
  pc     : Word
  status : Word
  dmem   : Memory
  ifid   : IFID
  idex   : IDEX
  exmem  : EXMEM
  memwb  : MEMWB
  deriving DecidableEq, Repr

def loopKey (s : State) : LoopKey := ⟨s.regs, s.pc, s.status, s.dmem, s.ifid, s.idex, s.exmem, s.memwb⟩

/-- The results of `steps_until` (R328), and the refusal of a step the model does not have. -/
inductive RunResult where
  | hitBreakpoint
  | loopDetected
  | stepCapReached
  | fault
  | refused
  deriving DecidableEq, Repr

/-- The search of `steps_until`: at most `n` more steps, the tests after each (R328; their order is log 12). -/
def searchUntil : Nat → List Word → List LoopKey → Session → Session × RunResult
  | 0, _, _, x => (x, .stepCapReached)
  | n + 1, breakpoints, seen, x =>
    match sessionStep x with
    | .fault _ => (x, .refused)
    | .refused _ => (x, .refused)
    | .next y =>
      if y.block.runState = .haltedFault then (y, .fault)
      else if breakpoints.contains y.block.pc then (y, .hitBreakpoint)
      else if seen.contains (loopKey y.block) then
        ({ y with block := setRunState y.block .infiniteLoopDetected }, .loopDetected)
      else searchUntil n breakpoints (loopKey y.block :: seen) y

/-- `STEP_CAP`, a positive number (R328, 93 U2). -/
def stepCap : Nat := Config.stepCapLessOne + 1

/-- `steps_until(breakpoints)` (R328). -/
def stepsUntil (breakpoints : List Word) (x : Session) : Session × RunResult :=
  searchUntil stepCap breakpoints [loopKey x.block] x

/-- The word `jal x0, 0` (30_encoding.md R97). -/
def selfJump : Word := 0x0000006F

/-- The block is parked: an untagged self-jump stands in WB (R330). -/
def parked (s : State) : Bool :=
  s.memwb.valid && s.memwb.fault == .none && fetchWord s s.memwb.pc == selfJump

end Sys2Proof.Machine
end

