-- ==== Sys2Proof/Safety.lean ====
section
/-! DEFINITION. What counts as a safe run, and the invariant of the block's states: what every state that a run can
reach looks like, which the spec's rules rely on. -/

namespace Sys2Proof.Machine

/-! ## Safe runs -/

/-- No fault has been taken (60_exceptions.md R346, R351). -/
def notHalted (s : State) : Bool := s.runState != .haltedFault

/-- `n` steps from `s` all answer a next state, and none of the states on the way has halted. -/
def SafeRun : Nat → State → Prop
  | 0, s => notHalted s = true
  | n + 1, s => notHalted s = true ∧ ∃ t, step s = .next t ∧ SafeRun n t

/-! ## The invariant -/

/-- Register 0 is stored as 0 (10_state.md R21, R40). -/
def zeroRegister (s : State) : Bool := s.regs[0] == 0

/-- Both byte arrays are in canonical form and inside the memory (R28, R60). -/
def memoriesCanonical (s : State) : Bool :=
  s.imem.wf && s.dmem.wf && s.imem.below s.memSize && s.dmem.below s.memSize

/-- The control words the generator can produce under a layout, and the zero word (45_control_word.md R200, R201). -/
def generatedWord (l : CwLayout) (cw : Nat) : Prop := cw = 0 ∨ ∃ i : Instr, cw = pack l (decodeControl i)

/-- An IF/ID slot: a bubble is ZERO; an instruction's next address is its own plus 4; a fetch fault carries no word;
only fetch faults are tagged here (R30, R34; 46_pipeline_stages.md R221). -/
def ifidShape (p : IFID) : Prop :=
  (p.valid = false → p = IFID.zero) ∧
  (p.valid = true → p.pcPlus4 = p.pc + 4) ∧
  (p.fault ≠ .none → p.instr = 0) ∧
  (p.fault = .none → p.faultInfo = 0) ∧
  p.fault ≠ .decode

/-- An ID/EX slot: a tagged slot has the zero control word (60_exceptions.md R345). -/
def idexShape (l : CwLayout) (p : IDEX) : Prop :=
  (p.valid = false → p = IDEX.zero) ∧
  (p.valid = true → p.pcPlus4 = p.pc + 4) ∧
  (p.fault ≠ .none → p.cw = 0) ∧
  (p.fault = .none → p.faultInfo = 0) ∧
  generatedWord l p.cw

/-- An EX/MEM slot (R345). -/
def exmemShape (l : CwLayout) (p : EXMEM) : Prop :=
  (p.valid = false → p = EXMEM.zero) ∧
  (p.valid = true → p.pcPlus4 = p.pc + 4) ∧
  (p.fault ≠ .none → p.cw = 0) ∧
  (p.fault = .none → p.faultInfo = 0) ∧
  generatedWord l p.cw

/-- A MEM/WB slot: a tagged slot has the zero control word, or is a load or a store whose address failed its check
(47_hazard_forwarding.md R278). -/
def memwbShape (l : CwLayout) (p : MEMWB) : Prop :=
  (p.valid = false → p = MEMWB.zero) ∧
  (p.valid = true → p.pcPlus4 = p.pc + 4) ∧
  (p.fault ≠ .none → p.cw = 0 ∨ (unpack l p.cw).resSrc = 1 ∨ (unpack l p.cw).memWr = 1) ∧
  (p.fault = .none → p.faultInfo = 0) ∧
  generatedWord l p.cw

/-- Bubbles never stand in ID alone: a bubble in IF/ID is one a flush or a reset put there, and it put one in ID/EX too
(47_hazard_forwarding.md R268; R40). -/
def bubblesTogether (s : State) : Prop := s.ifid.valid = false → s.idex.valid = false

/-- The run state and the fault record agree: a block that has not halted since its reset has no record, and a halted
block names a fault (R36, R40, R346). -/
def recordAgrees (s : State) : Prop :=
  (s.runState = .haltedFault → s.faultRecord.kind ≠ .none) ∧
  (s.runState ≠ .haltedFault → s.faultRecord = FaultRecord.cleared)

/-- The invariant. It holds at reset, and every step keeps it. -/
structure State.Inv (s : State) : Prop where
  zero     : zeroRegister s = true
  memories : memoriesCanonical s = true
  layoutOk : layoutAdmissible s.layout = true
  sizeOk   : legalSize s.memSize = true
  ifidOk   : ifidShape s.ifid
  idexOk   : idexShape s.layout s.idex
  exmemOk  : exmemShape s.layout s.exmem
  memwbOk  : memwbShape s.layout s.memwb
  together : bubblesTogether s
  recordOk : recordAgrees s

/-! ## Counting bubbles (70_reset_and_hazards.md R389, R390) -/

/-- 1 for a bubble, 0 for an instruction. -/
def bubble (valid : Bool) : Nat := if valid then 0 else 1

/-- The bubbles in the four pipeline registers. -/
def bubblesInFlight (s : State) : Nat :=
  bubble s.ifid.valid + bubble s.idex.valid + bubble s.exmem.valid + bubble s.memwb.valid

/-- Every tick retires an instruction or a bubble; four bubbles come from reset, one from every counted stall and two
from every flush. -/
def ticksAccounted (s : State) : Prop :=
  s.cycleCount + bubblesInFlight s = s.retiredCount + 4 + s.stallCount + 2 * s.flushCount

/-! ## The two levels (00_scope.md R11; 46_pipeline_stages.md R232) -/

/-- The pipeline is empty: four bubbles, as after reset (R34, R40). -/
def drained (s : State) : Prop :=
  s.ifid = IFID.zero ∧ s.idex = IDEX.zero ∧ s.exmem = EXMEM.zero ∧ s.memwb = MEMWB.zero

/-- All three effective toggles are on: always so in the Pipelined model (R212). -/
def fullyEnabled (s : State) : Bool := effStalls s && effFlushes s && effForwarding s

/-- `n` instructions of the reference, one after another (R232). -/
def sequential : Nat → State → State
  | 0, s => s
  | n + 1, s =>
    match referenceStep s with
    | .next t => sequential n t
    | .fault _ => s
    | .refused _ => s

end Sys2Proof.Machine
end

