-- ==== Sys2Proof/Certificates/Slice0/Obligations.lean ====
section
/-! DEFINITION. What is claimed of the model: one `def Obligations.<Name> : Prop` a claim, after the vocabulary the
claims share. -/

namespace Sys2Proof.Claims

open Sys2Proof.Machine

/-! ## One instruction executed alone (00_scope.md R10) -/

/-- `w` is the number `n` modulo 2^32 (R8). -/
def wraps (w : Word) (n : Int) : Prop := (w.toNat : Int) = n % 2 ^ 32

/-- A word matching `pattern` under `mask` is the instruction `f` reads from it (30_encoding.md R89). -/
def encodedAs (mask pattern : Word) (f : Word → Instr) : Prop :=
  ∀ w : Word, w &&& mask = pattern → decode w = .instr (f w)

/-- Nothing but registers, pc and data memory may have changed: not status, not the instruction memory, no pipeline
register, not the run state, not the fault record, no counter, no configuration. -/
def restUnchanged (s t : State) : Prop := t = { s with regs := t.regs, pc := t.pc, dmem := t.dmem }

/-- Every byte of data memory reads as before. -/
def bytesUnchanged (s t : State) : Prop := ∀ a : Nat, readByte t.dmem a = readByte s.dmem a

/-- `x[rd] <- v` and nothing else in the register file; register 0 discards the write (10_state.md R21). -/
def onlyRegister (s t : State) (rd : RegIdx) (v : Word) : Prop :=
  ∀ r : RegIdx, readReg t r = if r = rd ∧ rd ≠ 0#5 then v else readReg s r

/-- `i` completes at `s`: it writes `v` to `rd`, the next address is `next`, and nothing else changes. -/
def computes (i : Instr) (s : State) (rd : RegIdx) (v next : Word) : Prop :=
  ∃ t, exec i s = .next t ∧ onlyRegister s t rd v ∧ t.pc = next ∧ bytesUnchanged s t ∧ restUnchanged s t

/-- `i` completes at `s`: the next address is `next`, and nothing else changes. -/
def movesPc (i : Instr) (s : State) (next : Word) : Prop :=
  ∃ t, exec i s = .next t ∧ t.pc = next ∧ (∀ r : RegIdx, readReg t r = readReg s r) ∧ bytesUnchanged s t ∧
    restUnchanged s t

/-- `raise F(info)` at `s`: the fault is taken at the instruction's own address and nothing else changes
(60_exceptions.md R346). -/
def faults (i : Instr) (s : State) (kind : FaultTag) (info : Word) : Prop :=
  exec i s = .next { s with runState := .haltedFault, faultRecord := ⟨kind, s.pc, info⟩ }

/-! ## Ticks -/

/-- A block of one of the two pipelined models, with a layout the spec admits (00_scope.md R5; 45_control_word.md R203). -/
def ticking (s : State) : Prop := s.model ≠ .singleCycle ∧ layoutAdmissible s.layout = true

/-- The tick that starts here commits: the block has not halted, and no faulting slot stands in WB
(46_pipeline_stages.md R211, R222). -/
def committing (s : State) : Prop :=
  ticking s ∧ s.runState ≠ .haltedFault ∧ ¬ (s.memwb.valid = true ∧ s.memwb.fault ≠ .none)

/-- `n` steps lead from `s` to `t`, each answering a next state. -/
def stepsTo : Nat → State → State → Prop
  | 0, s, t => s = t
  | n + 1, s, t => ∃ u, step s = .next u ∧ stepsTo n u t

/-- An empty pipeline ready to run, as after reset. -/
def startsClean (s : State) : Prop := ticking s ∧ drained s ∧ s.runState = .ready

/-- The fetch at pc is legal (10_state.md R25). -/
def fetchable (s : State) : Prop := s.pc.toNat % 4 = 0 ∧ s.pc.toNat + 3 < s.memSize

/-- Field `f` of a control word, by the formula of 45_control_word.md R191. -/
def fieldOf (cw : Nat) (f : FieldPos) : Nat := cw / 2 ^ f.position % 2 ^ f.width

/-! ## Hazards (47_hazard_forwarding.md) -/

/-- The source registers of an instruction (R261: "JAL uses neither; ADDI to SRAI, LW and JALR use `rs1` only;
R-format, SW, BEQ and BNE use both"). -/
def sources : Instr → List RegIdx
  | .add _ a b   => [a, b]
  | .sub _ a b   => [a, b]
  | .sll _ a b   => [a, b]
  | .slt _ a b   => [a, b]
  | .sltu _ a b  => [a, b]
  | .xor _ a b   => [a, b]
  | .srl _ a b   => [a, b]
  | .sra _ a b   => [a, b]
  | .or _ a b    => [a, b]
  | .and _ a b   => [a, b]
  | .addi _ a _  => [a]
  | .slti _ a _  => [a]
  | .sltiu _ a _ => [a]
  | .xori _ a _  => [a]
  | .ori _ a _   => [a]
  | .andi _ a _  => [a]
  | .slli _ a _  => [a]
  | .srli _ a _  => [a]
  | .srai _ a _  => [a]
  | .lw _ a _    => [a]
  | .sw b a _    => [a, b]
  | .beq a b _   => [a, b]
  | .bne a b _   => [a, b]
  | .jal _ _     => []
  | .jalr _ a _  => [a]

def isLoad : Instr → Bool
  | .lw _ _ _ => true
  | _ => false

def isStore : Instr → Bool
  | .sw _ _ _ => true
  | _ => false

def isJal : Instr → Bool
  | .jal _ _ => true
  | _ => false

def isJalr : Instr → Bool
  | .jalr _ _ _ => true
  | _ => false

def isBranch : Instr → Bool
  | .beq _ _ _ => true
  | .bne _ _ _ => true
  | _ => false

/-- The destination register of an instruction that has one (30_encoding.md R82). -/
def destination : Instr → Option RegIdx
  | .add d _ _   => some d
  | .sub d _ _   => some d
  | .sll d _ _   => some d
  | .slt d _ _   => some d
  | .sltu d _ _  => some d
  | .xor d _ _   => some d
  | .srl d _ _   => some d
  | .sra d _ _   => some d
  | .or d _ _    => some d
  | .and d _ _   => some d
  | .addi d _ _  => some d
  | .slti d _ _  => some d
  | .sltiu d _ _ => some d
  | .xori d _ _  => some d
  | .ori d _ _   => some d
  | .andi d _ _  => some d
  | .slli d _ _  => some d
  | .srli d _ _  => some d
  | .srai d _ _  => some d
  | .lw d _ _    => some d
  | .sw _ _ _    => none
  | .beq _ _ _   => none
  | .bne _ _ _   => none
  | .jal d _     => some d
  | .jalr d _ _  => some d

/-- The number an instruction's immediate stands for: signed, and 0 to 31 for a shift amount (R83 to R86, R94); 0 in the
R format, which has none (R90). -/
def immediateOf : Instr → Int
  | .add _ _ _   => 0
  | .sub _ _ _   => 0
  | .sll _ _ _   => 0
  | .slt _ _ _   => 0
  | .sltu _ _ _  => 0
  | .xor _ _ _   => 0
  | .srl _ _ _   => 0
  | .sra _ _ _   => 0
  | .or _ _ _    => 0
  | .and _ _ _   => 0
  | .addi _ _ m  => m.toInt
  | .slti _ _ m  => m.toInt
  | .sltiu _ _ m => m.toInt
  | .xori _ _ m  => m.toInt
  | .ori _ _ m   => m.toInt
  | .andi _ _ m  => m.toInt
  | .slli _ _ n  => n.toNat
  | .srli _ _ n  => n.toNat
  | .srai _ _ n  => n.toNat
  | .lw _ _ m    => m.toInt
  | .sw _ _ m    => m.toInt
  | .beq _ _ m   => m.toInt
  | .bne _ _ m   => m.toInt
  | .jal _ m     => m.toInt
  | .jalr _ _ m  => m.toInt

/-- The slot in EX holds the instruction `j`, with no fault and with `j`'s control word (45_control_word.md R200). -/
def inExecute (s : State) (j : Instr) : Prop :=
  s.idex.valid = true ∧ s.idex.fault = .none ∧ s.idex.cw = pack s.layout (decodeControl j)

/-- An in-flight instruction will write `r`, which is not register 0 (R262, R271, R277). -/
def produces (s : State) (valid : Bool) (cw : Nat) (rd r : RegIdx) : Prop :=
  valid = true ∧ fieldOf cw s.layout.brWr = 1 ∧ rd = r ∧ r ≠ 0#5

/-- `v` is the value register `r` has for the instruction in EX when ID read `old`: the result in EX/MEM if that slot
produces `r` (R272's `fwd_mem`), else the result in MEM/WB if that one does (R213's `Result`), else `old` (R271 to R273,
R279). -/
def youngest (s : State) (r : RegIdx) (old v : Word) : Prop :=
  (produces s s.exmem.valid s.exmem.cw s.exmem.rd r →
    v = (if fieldOf s.exmem.cw s.layout.resSrc = 2 then s.exmem.pcPlus4 else s.exmem.aluResult)) ∧
  (¬ produces s s.exmem.valid s.exmem.cw s.exmem.rd r →
    produces s s.memwb.valid s.memwb.cw s.memwb.rd r →
    v = (if fieldOf s.memwb.cw s.layout.resSrc = 1 then s.memwb.memData
         else if fieldOf s.memwb.cw s.layout.resSrc = 2 then s.memwb.pcPlus4
         else s.memwb.aluResult)) ∧
  (¬ produces s s.exmem.valid s.exmem.cw s.exmem.rd r →
    ¬ produces s s.memwb.valid s.memwb.cw s.memwb.rd r → v = old)

/-! ## The control table (45_control_word.md R200) -/

/-- The last column of R200. -/
def defaultWord : Mnemonic → Nat
  | .ADD => 0x0001 | .SUB => 0x0401 | .AND => 0x0801 | .OR => 0x0C01 | .XOR => 0x1001 | .SLT => 0x1401
  | .SLTU => 0x1801 | .SLL => 0x1C01 | .SRL => 0x2001 | .SRA => 0x2401 | .ADDI => 0x0005 | .ANDI => 0x0805
  | .ORI => 0x0C05 | .XORI => 0x1005 | .SLTI => 0x1405 | .SLTIU => 0x1805 | .SLLI => 0x1C05 | .SRLI => 0x2005
  | .SRAI => 0x2405 | .LW => 0x000D | .SW => 0x0026 | .BEQ => 0x04C0 | .BNE => 0x0540 | .JAL => 0x01F1
  | .JALR => 0x0215

/-! ## Pairs of states -/

/-- The same state but for the status register and the model's count of its free values. -/
def sameButStatus (s t : State) : Prop := t = { s with status := t.status, statusDraws := t.statusDraws }

/-- The same state but for the delays, and for `status`, on which no claim rests. -/
def sameButDelay (s t : State) : Prop :=
  t = { s with delay := t.delay, status := t.status, statusDraws := t.statusDraws }

/-- The same state but for the layout, which is admissible in both, and the positions of the fields in the control words
in flight, whose values agree (45_control_word.md R203), and but for `status`, on which no claim rests. -/
def sameButLayout (s t : State) : Prop :=
  layoutAdmissible s.layout = true ∧ layoutAdmissible t.layout = true ∧
  t = { s with
        layout := t.layout
        status := t.status
        statusDraws := t.statusDraws
        idex := { s.idex with cw := t.idex.cw }
        exmem := { s.exmem with cw := t.exmem.cw }
        memwb := { s.memwb with cw := t.memwb.cw } } ∧
  unpack t.layout t.idex.cw = unpack s.layout s.idex.cw ∧
  unpack t.layout t.exmem.cw = unpack s.layout s.exmem.cw ∧
  unpack t.layout t.memwb.cw = unpack s.layout s.memwb.cw

/-! ## Pipeline and sequential execution (46_pipeline_stages.md R232) -/

/-- What `n` ticks from `s` have committed is what `k` instructions of the reference commit, `k` the number retired: the
registers agree; so does the data memory, which is one store ahead when a retiring slot stands in WB; the slot in WB is
the reference's next instruction; and a halted pipeline names the fault the reference raises next. -/
def matchesAfter (s : State) (n : Nat) : Prop :=
  ∃ t k, stepsTo n s t ∧ t.retiredCount = s.retiredCount + k ∧
    t.regs = (sequential k s).regs ∧
    (sequential k s).runState = .ready ∧
    t.dmem = (sequential (if t.memwb.valid = true then k + 1 else k) s).dmem ∧
    (t.memwb.valid = true → t.memwb.pc = (sequential k s).pc) ∧
    (t.runState = .haltedFault →
      (sequential (k + 1) s).runState = .haltedFault ∧ (sequential (k + 1) s).faultRecord = t.faultRecord)

/-- The pipeline halts if and only if the reference does. -/
def haltsTogether (s : State) : Prop :=
  (∃ n t, stepsTo n s t ∧ t.runState = .haltedFault) ↔ (∃ m, (sequential m s).runState = .haltedFault)

/-! ## The assembler (30_encoding.md R95 to R97) -/

/-- The instruction the source form `op` writes at offset `p` when the labels have the offsets `find` gives: its mnemonic,
its operands in their places, and its immediate, `L - p` for a transfer to `L` (R95, R96); `j label` is `jal x0, label`
(R97). -/
def writtenAs (find : String → Option Nat) (p : Nat) (op : AsmOp) (i : Instr) : Prop :=
  match op with
  | .regReg name rd rs1 rs2 =>
    i.mnemonic = name ∧ i.format = .r ∧ destination i = some rd ∧ sources i = [rs1, rs2]
  | .regImm name rd rs1 imm =>
    i.mnemonic = name ∧ i.format = .i ∧ destination i = some rd ∧ sources i = [rs1] ∧ immediateOf i = imm
  | .load rd imm rs1 => i.mnemonic = .LW ∧ destination i = some rd ∧ sources i = [rs1] ∧ immediateOf i = imm
  | .store rs2 imm rs1 => i.mnemonic = .SW ∧ sources i = [rs1, rs2] ∧ immediateOf i = imm
  | .branch name rs1 rs2 label =>
    i.mnemonic = name ∧ i.format = .b ∧ sources i = [rs1, rs2] ∧
      ∃ target, find label = some target ∧ immediateOf i = (target : Int) - (p : Int)
  | .jal rd label =>
    i.mnemonic = .JAL ∧ destination i = some rd ∧
      ∃ target, find label = some target ∧ immediateOf i = (target : Int) - (p : Int)
  | .jalr rd imm rs1 => i.mnemonic = .JALR ∧ destination i = some rd ∧ sources i = [rs1] ∧ immediateOf i = imm
  | .j label =>
    i.mnemonic = .JAL ∧ destination i = some 0#5 ∧
      ∃ target, find label = some target ∧ immediateOf i = (target : Int) - (p : Int)

/-! ## The host's search (49_host_interface.md R328) -/

/-- Some state fewer than `n` steps from `s`, `s` included, has the compared state of `v`. -/
def seenBefore (s : State) (n : Nat) (v : State) : Prop :=
  ∃ m u, m < n ∧ stepsTo m s u ∧ loopKey u = loopKey v

/-- The state `v`, after `n` steps from `s`, ends no search: no breakpoint, no repetition, no fault. -/
def searchGoesOn (breakpoints : List Word) (s : State) (n : Nat) (v : State) : Prop :=
  v.pc ∉ breakpoints ∧ v.runState = .ready ∧ ¬ seenBefore s n v

/-! ## Timed signals (48_timed_datapath.md) -/

/-- Every delay of `d` is at most that of `e`. -/
def delaysLe (d e : Delay) : Prop :=
  d.add ≤ e.add ∧ d.imem ≤ e.imem ∧ d.dmem ≤ e.dmem ∧ d.rf ≤ e.rf ∧ d.ctrl ≤ e.ctrl ∧ d.imm ≤ e.imm ∧
  d.mux ≤ e.mux ∧ d.alu ≤ e.alu ∧ d.zero ≤ e.zero ∧ d.br ≤ e.br ∧ d.haz ≤ e.haz ∧ d.fwd ≤ e.fwd

/-- `x` is not ready before `d`, which it depends on, when both are active (R292). -/
def waitsFor {α β : Type} (x : Signal α) (d : Signal β) : Prop :=
  x.isActive = true → d.isActive = true → d.readyAt ≤ x.readyAt

end Sys2Proof.Claims

open Sys2Proof Sys2Proof.Machine Sys2Proof.Claims

/-! ## Encoding (30_encoding.md) -/

/-- No operand bit is lost: decoding an encoded instruction gives it back, from the word, from its bytes in memory
order with anything behind them, and from the table's numbering of its bits (R89, R93). -/
def Obligations.DecodeOfEncodeIsIdentity : Prop :=
  ∀ i : Instr, i.wellFormed = true →
    decode (encode i) = .instr i ∧
    (∀ rest : List Byte, decodeBytes (bytesOfWord (encode i) ++ rest) = some (.instr i, rest)) ∧
    decodeTableWord 32 (encode i).toNat = some i

/-- No bit of a valid word is ignored: encoding what a word decodes to gives the word back (R93). -/
def Obligations.EncodeOfDecodeIsIdentity : Prop :=
  ∀ (w : Word) (i : Instr), decode w = .instr i → i.wellFormed = true ∧ encode i = w

/-- R89: a word is a row's instruction exactly when it matches the row, the rows exclude each other, and a word that
matches none is invalid. -/
def Obligations.DecoderFollowsOpcodeTable : Prop :=
  (∀ row ∈ opcodeTable, ∀ w : Word,
    w &&& row.mask = row.pattern ↔ ∃ i, decode w = .instr i ∧ i.mnemonic = row.mnemonic) ∧
  (∀ row ∈ opcodeTable, ∀ row' ∈ opcodeTable, ∀ w : Word,
    w &&& row.mask = row.pattern → w &&& row'.mask = row'.pattern → row = row') ∧
  (∀ w : Word, (∀ row ∈ opcodeTable, w &&& row.mask ≠ row.pattern) → ∃ why, decode w = .invalid why)

/-- Words written out from the formats of R82 and the rows of R89, one or two a format. -/
def Obligations.WrittenWordsDecode : Prop :=
  decode 0b0000000_00010_00001_000_00011_0110011#32 = .instr (.add 3 1 2) ∧
  decode 0b0100000_00010_00001_101_00011_0110011#32 = .instr (.sra 3 1 2) ∧
  decode 0b111111111111_00110_000_00110_0010011#32 = .instr (.addi 6 6 0xFFF) ∧
  decode 0b0100000_11111_01010_101_00101_0010011#32 = .instr (.srai 5 10 31) ∧
  decode 0b000000000000_00001_010_00011_0000011#32 = .instr (.lw 3 1 0) ∧
  decode 0b0000000_00010_00001_010_00000_0100011#32 = .instr (.sw 2 1 0) ∧
  decode 0b1_111111_00111_00110_000_1100_1_1100011#32 = .instr (.beq 6 7 0x1FF8) ∧
  decode 0b0_0000000110_0_00000000_00001_1101111#32 = .instr (.jal 1 12) ∧
  decode 0b000000000000_00001_000_00000_1100111#32 = .instr (.jalr 0 1 0) ∧
  decode 0x00000000#32 = .invalid .unknownOpcode

/-- Words the subset does not admit are invalid: the compressed quadrants (R80), LUI and AUIPC (R87), the MISC-MEM and
SYSTEM opcodes (R64, R360); each has the all-zero control word under every layout (R201), and one fetched by the
reference raises DecodeFault with the word (R341, R346). That the reference is a model of its own is the model's choice
(log 4), and so is that its pc stays where the fault is taken (log 8, DEDUCED from R346). -/
def Obligations.WordsOutsideTheSubsetAreInvalid : Prop :=
  ∀ w : Word,
    (w.extractLsb' 0 2 ≠ 0b11#2 ∨
      w.extractLsb' 0 7 ∈ [0b0110111#7, 0b0010111#7, 0b0001111#7, 0b1110011#7]) →
    ∃ why, decode w = .invalid why ∧ (∀ l, controlWord l (decode w) = 0) ∧
      ∀ s : State, s.model = .singleCycle → s.runState = .ready → fetchable s → fetchWord s s.pc = w →
        step s = .next { s with runState := .haltedFault, faultRecord := ⟨.decode, s.pc, w⟩ }

/-- R83 to R86: every immediate bit by bit, with the ranges the rules state. -/
def Obligations.ImmediatesBitByBit : Prop :=
  ∀ w : Word,
    (∀ k < 32, (immI w).getLsbD k = w.getLsbD (if k < 11 then 20 + k else 31)) ∧
    (-2048 ≤ (immI w).toInt ∧ (immI w).toInt ≤ 2047) ∧
    (∀ k < 5, (rawShamt w).getLsbD k = w.getLsbD (20 + k)) ∧
    (rawImmI w = w.extractLsb' 25 7 ++ rawShamt w) ∧
    (∀ k < 32, (immS w).getLsbD k = w.getLsbD (if k < 5 then 7 + k else if k < 11 then 20 + k else 31)) ∧
    (-2048 ≤ (immS w).toInt ∧ (immS w).toInt ≤ 2047) ∧
    (∀ k < 32, (immB w).getLsbD k =
      (decide (k ≠ 0) && w.getLsbD (if k < 5 then 7 + k else if k < 11 then 20 + k else if k < 12 then 7 else 31))) ∧
    (-4096 ≤ (immB w).toInt ∧ (immB w).toInt ≤ 4094 ∧ (immB w).toInt % 2 = 0) ∧
    (∀ k < 32, (immJ w).getLsbD k =
      (decide (k ≠ 0) &&
        w.getLsbD (if k < 11 then 20 + k else if k < 12 then 20 else if k < 20 then k else 31))) ∧
    (-1048576 ≤ (immJ w).toInt ∧ (immJ w).toInt ≤ 1048574 ∧ (immJ w).toInt % 2 = 0)

/-! ## Register-register instructions (40_alu_register.md) -/

/-- R120, R121. -/
def Obligations.AddAndSubtractRegisters : Prop :=
  encodedAs 0xFE00707F 0x00000033 (fun w => .add (fieldRd w) (fieldRs1 w) (fieldRs2 w)) ∧
  encodedAs 0xFE00707F 0x40000033 (fun w => .sub (fieldRd w) (fieldRs1 w) (fieldRs2 w)) ∧
  ∀ (rd rs1 rs2 : RegIdx) (s : State),
    (∃ v, wraps v ((readReg s rs1).toNat + (readReg s rs2).toNat) ∧
      computes (.add rd rs1 rs2) s rd v (s.pc + 4)) ∧
    (∃ v, wraps v ((readReg s rs1).toNat - (readReg s rs2).toNat) ∧
      computes (.sub rd rs1 rs2) s rd v (s.pc + 4))

/-- R122, R126, R127: the shift amount is bits 4:0 of `x[rs2]`. -/
def Obligations.ShiftRegisters : Prop :=
  encodedAs 0xFE00707F 0x00001033 (fun w => .sll (fieldRd w) (fieldRs1 w) (fieldRs2 w)) ∧
  encodedAs 0xFE00707F 0x00005033 (fun w => .srl (fieldRd w) (fieldRs1 w) (fieldRs2 w)) ∧
  encodedAs 0xFE00707F 0x40005033 (fun w => .sra (fieldRd w) (fieldRs1 w) (fieldRs2 w)) ∧
  ∀ (rd rs1 rs2 : RegIdx) (s : State),
    (∃ v : Word, v.toNat = (readReg s rs1).toNat * 2 ^ ((readReg s rs2).toNat % 32) % 2 ^ 32 ∧
      computes (.sll rd rs1 rs2) s rd v (s.pc + 4)) ∧
    (∃ v : Word, v.toNat = (readReg s rs1).toNat / 2 ^ ((readReg s rs2).toNat % 32) ∧
      computes (.srl rd rs1 rs2) s rd v (s.pc + 4)) ∧
    (∃ v : Word, v.toInt = (readReg s rs1).toInt / 2 ^ ((readReg s rs2).toNat % 32) ∧
      computes (.sra rd rs1 rs2) s rd v (s.pc + 4))

/-- R123, R124. -/
def Obligations.CompareRegisters : Prop :=
  encodedAs 0xFE00707F 0x00002033 (fun w => .slt (fieldRd w) (fieldRs1 w) (fieldRs2 w)) ∧
  encodedAs 0xFE00707F 0x00003033 (fun w => .sltu (fieldRd w) (fieldRs1 w) (fieldRs2 w)) ∧
  ∀ (rd rs1 rs2 : RegIdx) (s : State),
    computes (.slt rd rs1 rs2) s rd (if (readReg s rs1).toInt < (readReg s rs2).toInt then 1 else 0) (s.pc + 4) ∧
    computes (.sltu rd rs1 rs2) s rd (if (readReg s rs1).toNat < (readReg s rs2).toNat then 1 else 0) (s.pc + 4)

/-- R125, R128, R129. -/
def Obligations.BitwiseRegisters : Prop :=
  encodedAs 0xFE00707F 0x00004033 (fun w => .xor (fieldRd w) (fieldRs1 w) (fieldRs2 w)) ∧
  encodedAs 0xFE00707F 0x00006033 (fun w => .or (fieldRd w) (fieldRs1 w) (fieldRs2 w)) ∧
  encodedAs 0xFE00707F 0x00007033 (fun w => .and (fieldRd w) (fieldRs1 w) (fieldRs2 w)) ∧
  ∀ (rd rs1 rs2 : RegIdx) (s : State),
    (∃ v : Word, (∀ k < 32, v.getLsbD k = ((readReg s rs1).getLsbD k != (readReg s rs2).getLsbD k)) ∧
      computes (.xor rd rs1 rs2) s rd v (s.pc + 4)) ∧
    (∃ v : Word, (∀ k < 32, v.getLsbD k = ((readReg s rs1).getLsbD k || (readReg s rs2).getLsbD k)) ∧
      computes (.or rd rs1 rs2) s rd v (s.pc + 4)) ∧
    (∃ v : Word, (∀ k < 32, v.getLsbD k = ((readReg s rs1).getLsbD k && (readReg s rs2).getLsbD k)) ∧
      computes (.and rd rs1 rs2) s rd v (s.pc + 4))

/-! ## Register-immediate instructions (41_alu_immediate.md) -/

/-- R140. -/
def Obligations.AddImmediate : Prop :=
  encodedAs 0x0000707F 0x00000013 (fun w => .addi (fieldRd w) (fieldRs1 w) (rawImmI w)) ∧
  ∀ (rd rs1 : RegIdx) (imm : BitVec 12) (s : State),
    ∃ v, wraps v ((readReg s rs1).toNat + imm.toInt) ∧ computes (.addi rd rs1 imm) s rd v (s.pc + 4)

/-- R141, R142: SLTIU sign-extends its immediate and then reads it as unsigned. -/
def Obligations.CompareImmediate : Prop :=
  encodedAs 0x0000707F 0x00002013 (fun w => .slti (fieldRd w) (fieldRs1 w) (rawImmI w)) ∧
  encodedAs 0x0000707F 0x00003013 (fun w => .sltiu (fieldRd w) (fieldRs1 w) (rawImmI w)) ∧
  ∀ (rd rs1 : RegIdx) (imm : BitVec 12) (s : State),
    computes (.slti rd rs1 imm) s rd (if (readReg s rs1).toInt < imm.toInt then 1 else 0) (s.pc + 4) ∧
    computes (.sltiu rd rs1 imm) s rd
      (if ((readReg s rs1).toNat : Int) < imm.toInt % 2 ^ 32 then 1 else 0) (s.pc + 4)

/-- R143, R144, R145: bit 11 of the immediate stands for bits 31:11 of the operand. -/
def Obligations.BitwiseImmediate : Prop :=
  encodedAs 0x0000707F 0x00004013 (fun w => .xori (fieldRd w) (fieldRs1 w) (rawImmI w)) ∧
  encodedAs 0x0000707F 0x00006013 (fun w => .ori (fieldRd w) (fieldRs1 w) (rawImmI w)) ∧
  encodedAs 0x0000707F 0x00007013 (fun w => .andi (fieldRd w) (fieldRs1 w) (rawImmI w)) ∧
  ∀ (rd rs1 : RegIdx) (imm : BitVec 12) (s : State),
    (∃ v : Word, (∀ k < 32, v.getLsbD k = ((readReg s rs1).getLsbD k != imm.getLsbD (min k 11))) ∧
      computes (.xori rd rs1 imm) s rd v (s.pc + 4)) ∧
    (∃ v : Word, (∀ k < 32, v.getLsbD k = ((readReg s rs1).getLsbD k || imm.getLsbD (min k 11))) ∧
      computes (.ori rd rs1 imm) s rd v (s.pc + 4)) ∧
    (∃ v : Word, (∀ k < 32, v.getLsbD k = ((readReg s rs1).getLsbD k && imm.getLsbD (min k 11))) ∧
      computes (.andi rd rs1 imm) s rd v (s.pc + 4))

/-- R146, R147, R148, with the words of R146 that are not SLLI, and R148's second ALU operand, of which the shift uses
the low five bits. -/
def Obligations.ShiftImmediate : Prop :=
  encodedAs 0xFE00707F 0x00001013 (fun w => .slli (fieldRd w) (fieldRs1 w) (rawShamt w)) ∧
  encodedAs 0xFE00707F 0x00005013 (fun w => .srli (fieldRd w) (fieldRs1 w) (rawShamt w)) ∧
  encodedAs 0xFE00707F 0x40005013 (fun w => .srai (fieldRd w) (fieldRs1 w) (rawShamt w)) ∧
  (∀ w : Word, fieldOpcode w = 0x13#7 → fieldFunct3 w = 0b001#3 → w.extractLsb' 25 7 ≠ 0#7 →
    ∃ why, decode w = .invalid why) ∧
  (∀ w : Word, w &&& 0xFE00707F = 0x40005013 →
    (immI w).toNat = 0x400 + (rawShamt w).toNat ∧ (immI w).toNat % 32 = (rawShamt w).toNat) ∧
  ∀ (rd rs1 : RegIdx) (shamt : BitVec 5) (s : State),
    (∃ v : Word, v.toNat = (readReg s rs1).toNat * 2 ^ shamt.toNat % 2 ^ 32 ∧
      computes (.slli rd rs1 shamt) s rd v (s.pc + 4)) ∧
    (∃ v : Word, v.toNat = (readReg s rs1).toNat / 2 ^ shamt.toNat ∧
      computes (.srli rd rs1 shamt) s rd v (s.pc + 4)) ∧
    (∃ v : Word, v.toInt = (readReg s rs1).toInt / 2 ^ shamt.toNat ∧
      computes (.srai rd rs1 shamt) s rd v (s.pc + 4))

/-! ## Load and store (42_load_store.md) -/

/-- R160, with the faults of R342 and R344 raised as R10 says and entered as R346 says. The load reads no byte outside its
word, and a failing check leaves everything but the run state and the fault record as it was. That a fault of an
instruction executed alone halts with the record at its own pc, and leaves pc there, is the model's choice (log 8, DEDUCED
from R10 and R346). -/
def Obligations.LoadWordCompletesOrFaults : Prop :=
  encodedAs 0x0000707F 0x00002003 (fun w => .lw (fieldRd w) (fieldRs1 w) (rawImmI w)) ∧
  ∀ (rd rs1 : RegIdx) (imm : BitVec 12) (s : State),
    wraps (effectiveAddress s rs1 imm) ((readReg s rs1).toNat + imm.toInt) ∧
    ((effectiveAddress s rs1 imm).toNat % 4 = 0 → (effectiveAddress s rs1 imm).toNat + 3 < s.memSize →
      ∃ v : Word,
        (∀ k < 4, ∀ j < 8,
          v.getLsbD (8 * k + j) = (readByte s.dmem ((effectiveAddress s rs1 imm).toNat + k)).getLsbD j) ∧
        computes (.lw rd rs1 imm) s rd v (s.pc + 4)) ∧
    ((effectiveAddress s rs1 imm).toNat % 4 ≠ 0 →
      faults (.lw rd rs1 imm) s .alignment (effectiveAddress s rs1 imm)) ∧
    ((effectiveAddress s rs1 imm).toNat % 4 = 0 → s.memSize ≤ (effectiveAddress s rs1 imm).toNat + 3 →
      faults (.lw rd rs1 imm) s .range (effectiveAddress s rs1 imm))

/-- R161, with the faults of R342 and R344 raised as R10 says and entered as R346 says; that a fault of an instruction
executed alone halts with the record at its own pc, and leaves pc there, is the model's choice (log 8, DEDUCED from R10 and
R346). The four bytes at the effective address take the register, the least significant first; every other byte,
every register and every other field keeps its value. (The byte clauses are of canonical memories, which the invariant
says every state has.) -/
def Obligations.StoreWordCompletesOrFaults : Prop :=
  encodedAs 0x0000707F 0x00002023 (fun w => .sw (fieldRs2 w) (fieldRs1 w) (rawImmS w)) ∧
  ∀ (rs2 rs1 : RegIdx) (imm : BitVec 12) (s : State),
    wraps (effectiveAddress s rs1 imm) ((readReg s rs1).toNat + imm.toInt) ∧
    ((effectiveAddress s rs1 imm).toNat % 4 = 0 → (effectiveAddress s rs1 imm).toNat + 3 < s.memSize →
      ∃ t, exec (.sw rs2 rs1 imm) s = .next t ∧
        (∀ r : RegIdx, readReg t r = readReg s r) ∧ t.pc = s.pc + 4 ∧ restUnchanged s t ∧
        (s.dmem.wf = true →
          (∀ k < 4, ∀ j < 8,
            (readByte t.dmem ((effectiveAddress s rs1 imm).toNat + k)).getLsbD j =
              (readReg s rs2).getLsbD (8 * k + j)) ∧
          (∀ a : Nat, a < (effectiveAddress s rs1 imm).toNat ∨ (effectiveAddress s rs1 imm).toNat + 4 ≤ a →
            readByte t.dmem a = readByte s.dmem a))) ∧
    ((effectiveAddress s rs1 imm).toNat % 4 ≠ 0 →
      faults (.sw rs2 rs1 imm) s .alignment (effectiveAddress s rs1 imm)) ∧
    ((effectiveAddress s rs1 imm).toNat % 4 = 0 → s.memSize ≤ (effectiveAddress s rs1 imm).toNat + 3 →
      faults (.sw rs2 rs1 imm) s .range (effectiveAddress s rs1 imm))

/-! ## Control transfer (43_control_transfer.md) -/

/-- R170, R171. The branch completes whatever its target: a bad target is the fetch's fault, not the branch's. -/
def Obligations.BranchesCompareAndMovePc : Prop :=
  encodedAs 0x0000707F 0x00000063 (fun w => .beq (fieldRs1 w) (fieldRs2 w) (rawImmB w)) ∧
  encodedAs 0x0000707F 0x00001063 (fun w => .bne (fieldRs1 w) (fieldRs2 w) (rawImmB w)) ∧
  ∀ (rs1 rs2 : RegIdx) (imm : BitVec 13) (s : State),
    ∃ target, wraps target (s.pc.toNat + imm.toInt) ∧
      movesPc (.beq rs1 rs2 imm) s (if readReg s rs1 = readReg s rs2 then target else s.pc + 4) ∧
      movesPc (.bne rs1 rs2 imm) s (if readReg s rs1 = readReg s rs2 then s.pc + 4 else target)

/-- R172. -/
def Obligations.JumpAndLink : Prop :=
  encodedAs 0x0000007F 0x0000006F (fun w => .jal (fieldRd w) (rawImmJ w)) ∧
  ∀ (rd : RegIdx) (imm : BitVec 21) (s : State),
    ∃ link target, wraps link (s.pc.toNat + 4) ∧ wraps target (s.pc.toNat + imm.toInt) ∧
      computes (.jal rd imm) s rd link target

/-- R173. The target comes from the old base register, with bit 0 cleared after the sum has wrapped. -/
def Obligations.JumpAndLinkRegister : Prop :=
  encodedAs 0x0000707F 0x00000067 (fun w => .jalr (fieldRd w) (fieldRs1 w) (rawImmI w)) ∧
  ∀ (rd rs1 : RegIdx) (imm : BitVec 12) (s : State),
    ∃ link target : Word, wraps link (s.pc.toNat + 4) ∧
      (target.toNat : Int) = ((readReg s rs1).toNat + imm.toInt) % 2 ^ 32 / 2 * 2 ∧
      computes (.jalr rd rs1 imm) s rd link target

/-! ## One step of the reference (00_scope.md R5, R11; log 4) -/

/-- A step runs the decoded instruction: when the four bytes at pc decode to `i`, the step is `exec i`, from the run
state Ready. -/
def Obligations.ReferenceStepRunsDecodedInstruction : Prop :=
  ∀ (s : State) (i : Instr), s.model = .singleCycle → s.runState ≠ .haltedFault → fetchable s →
    decodeBytes [readByte s.imem s.pc.toNat, readByte s.imem (s.pc.toNat + 1), readByte s.imem (s.pc.toNat + 2),
      readByte s.imem (s.pc.toNat + 3)] = some (.instr i, []) →
    step s = exec i { s with runState := .ready }

/-- A fetch at a bad pc, and an invalid word, are taken at their own address, with the recorded value of R341, R343,
R344, by the entry of R346. That the reference is a model of its own is the model's choice (log 4), and so is that its pc,
like everything else, stays as it was (log 8, DEDUCED from R346). -/
def Obligations.ReferenceStepTakesFetchFaults : Prop :=
  ∀ s : State, s.model = .singleCycle → s.runState = .ready →
    (s.pc.toNat % 4 ≠ 0 →
      step s = .next { s with runState := .haltedFault, faultRecord := ⟨.alignment, s.pc, s.pc⟩ }) ∧
    (s.pc.toNat % 4 = 0 → s.memSize ≤ s.pc.toNat + 3 →
      step s = .next { s with runState := .haltedFault, faultRecord := ⟨.range, s.pc, s.pc⟩ }) ∧
    (fetchable s → (∃ why, decode (fetchWord s s.pc) = .invalid why) →
      step s = .next { s with runState := .haltedFault, faultRecord := ⟨.decode, s.pc, fetchWord s s.pc⟩ })

/-! ## The tick (46_pipeline_stages.md) -/

/-- A fetched instruction has its effect on the way through an empty pipeline, under every setting of the toggles: its
store is in memory after four ticks, its register write after five; a transfer redirects pc after three; and its fault
is taken by the fifth tick, with no effect before. -/
def Obligations.PipelineRunsFetchedInstruction : Prop :=
  ∀ (s : State) (i : Instr), startsClean s → fetchable s → decode (fetchWord s s.pc) = .instr i →
    ∃ u t3 t4 t5, exec i s = .next u ∧ stepsTo 3 s t3 ∧ step t3 = .next t4 ∧ step t4 = .next t5 ∧
      (u.runState = .ready → u.pc ≠ s.pc + 4 → t3.pc = u.pc) ∧
      t4.dmem = u.dmem ∧ t4.regs = s.regs ∧ t4.memwb.valid = true ∧ t4.memwb.pc = s.pc ∧
      t5.regs = u.regs ∧ t5.runState = u.runState ∧ t5.faultRecord = u.faultRecord

/-- A fetch fault and an invalid word reach WB in four ticks and are taken by the fifth, with no register and no byte
changed (60_exceptions.md R341, R343, R344, R346). -/
def Obligations.PipelineTakesFetchAndDecodeFaults : Prop :=
  ∀ s : State, startsClean s →
    ∀ (kind : FaultTag) (info : Word),
      (s.pc.toNat % 4 ≠ 0 ∧ kind = .alignment ∧ info = s.pc) ∨
      (s.pc.toNat % 4 = 0 ∧ s.memSize ≤ s.pc.toNat + 3 ∧ kind = .range ∧ info = s.pc) ∨
      (fetchable s ∧ (∃ why, decode (fetchWord s s.pc) = .invalid why) ∧ kind = .decode ∧
        info = fetchWord s s.pc) →
      ∃ t4 t5, stepsTo 4 s t4 ∧ t4.runState = .ready ∧ step t4 = .next t5 ∧ t5.runState = .haltedFault ∧
        t5.faultRecord = ⟨kind, s.pc, info⟩ ∧ t5.regs = s.regs ∧ t5.dmem = s.dmem

/-- R211: in Halted-Fault a tick changes nothing and reports the recorded fault again; in the other two run states it
has an effect: it is counted, or it halts. (Nothing is claimed of `status`, whose value after a tick R27 leaves free.) -/
def Obligations.HaltedTickChangesNothing : Prop :=
  ∀ s : State, ticking s →
    (s.runState = .haltedFault →
      ∃ t, step s = .next t ∧ sameButStatus s t ∧ stepReport s = .fault s.faultRecord) ∧
    (s.runState ≠ .haltedFault → ∃ t, step s = .next t ∧
      (t.runState = .haltedFault ∨ (t.runState = .ready ∧ t.cycleCount = s.cycleCount + 1)))

/-- R222: the halt tick writes the run state and the fault record, and nothing else changes. (Nothing is claimed of
`status`, R27.) -/
def Obligations.HaltTickTakesTheFault : Prop :=
  ∀ s : State, ticking s → s.runState ≠ .haltedFault → s.memwb.valid = true → s.memwb.fault ≠ .none →
    ∃ t, step s = .next t ∧
      sameButStatus
        { s with runState := .haltedFault, faultRecord := ⟨s.memwb.fault, s.memwb.pc, s.memwb.faultInfo⟩ } t

/-- What a committing tick writes: at most the destination of the slot in WB, with the value `ResSrc` selects, and at
most the four bytes of the store in MEM, if its address passes the checks (R213, R219, R227). The byte clause is of
canonical memories, which the invariant says every state has. -/
def Obligations.TickCommitsOneRegisterAndOneWord : Prop :=
  ∀ s : State, committing s → ∃ t, step s = .next t ∧
    (∀ r : RegIdx, readReg t r =
      if s.memwb.valid = true ∧ fieldOf s.memwb.cw s.layout.brWr = 1 ∧ s.memwb.rd = r ∧ r ≠ 0#5 then
        (if fieldOf s.memwb.cw s.layout.resSrc = 1 then s.memwb.memData
         else if fieldOf s.memwb.cw s.layout.resSrc = 2 then s.memwb.pcPlus4
         else s.memwb.aluResult)
      else readReg s r) ∧
    (s.dmem.wf = true → ∀ a : Nat, readByte t.dmem a =
      if s.exmem.valid = true ∧ s.exmem.fault = .none ∧ fieldOf s.exmem.cw s.layout.memWr = 1 ∧
          s.exmem.aluResult.toNat % 4 = 0 ∧ s.exmem.aluResult.toNat + 3 < s.memSize ∧
          s.exmem.aluResult.toNat ≤ a ∧ a < s.exmem.aluResult.toNat + 4 then
        s.exmem.storeData.extractLsb' (8 * (a - s.exmem.aluResult.toNat)) 8
      else readByte s.dmem a)

/-- R223, R224, R225, and R226's "`EXMEM.out' = EXMEM.in` and `MEMWB.out' = MEMWB.in`, always". -/
def Obligations.PipelineRegistersLatch : Prop :=
  ∀ s : State, committing s → ∃ t, step s = .next t ∧
    t.pc = (if branchTaken s = true then pcTarget s else if stall s = true then s.pc else s.pc + 4) ∧
    t.ifid = (if flush s = true then IFID.zero else if stall s = true then s.ifid else ifidIn s) ∧
    t.idex = (if flush s = true ∨ stall s = true then IDEX.zero else idexIn s) ∧
    t.exmem = exmemIn s ∧ t.memwb = memwbIn s

/-- R228. -/
def Obligations.CountersAtTheEdge : Prop :=
  ∀ s : State, committing s → ∃ t, step s = .next t ∧
    t.cycleCount = s.cycleCount + 1 ∧
    t.retiredCount = (if s.memwb.valid = true then s.retiredCount + 1 else s.retiredCount) ∧
    t.flushCount = (if flush s = true then s.flushCount + 1 else s.flushCount) ∧
    t.stallCount = (if stall s = true ∧ flush s = false then s.stallCount + 1 else s.stallCount)

/-- R65: no step changes the program, whatever the model; of the host's calls only `load_program` does. No step changes
the configuration either (10_state.md R38). -/
def Obligations.ProgramAndConfigurationKept : Prop :=
  (∀ s t : State, step s = .next t →
    t.imem = s.imem ∧ t.model = s.model ∧ t.stallsEn = s.stallsEn ∧ t.flushesEn = s.flushesEn ∧
    t.forwardingEn = s.forwardingEn ∧ t.layout = s.layout ∧ t.delay = s.delay ∧ t.memSize = s.memSize) ∧
  (∀ (s : State) (m : Model) (pc : Word), (hostReset m pc s).imem = s.imem) ∧
  (∀ (s : State) (a b c : Bool), (setHazardOptions a b c s).imem = s.imem) ∧
  (∀ (s : State) (r : RegIdx) (v : Word), (writeRegister r v s).imem = s.imem) ∧
  (∀ (s t : State) (a v : Word), hostWriteWord a v s = .ok t → t.imem = s.imem) ∧
  (∀ x y : Session, stepBack x = .restored y → y.block.imem = x.block.imem) ∧
  (∀ (s t : State) (bytes : List Byte), loadProgram bytes s = .ok t →
    ∀ a, readByte t.imem a = bytes.getD a 0)

/-- R214: what ID reads for the instruction that moves into EX is what the register file holds after the edge, the
register written in that very tick included. -/
def Obligations.RegisterReadSeesWriteBack : Prop :=
  ∀ s : State, committing s → stall s = false → flush s = false → ∃ t, step s = .next t ∧
    t.idex.opA = readReg t (s.ifid.instr.extractLsb' 15 5) ∧
    t.idex.opB = readReg t (s.ifid.instr.extractLsb' 20 5)

/-! ## Hazards and forwarding (47_hazard_forwarding.md) -/

/-- R261 to R265: when ID holds the instruction `i`, the tick stalls exactly when stalls are on and an in-flight
instruction that writes one of `i`'s sources stands in EX and is a load (forwarding on), or stands in EX or in MEM
(forwarding off); when ID holds no instruction it never stalls. -/
def Obligations.StallExactlyOnUnmetDependency : Prop :=
  (∀ (s : State) (i : Instr), s.ifid.valid = true → s.ifid.fault = .none → decode s.ifid.instr = .instr i →
    (effForwarding s = true →
      (stall s = true ↔ effStalls s = true ∧ fieldOf s.idex.cw s.layout.resSrc = 1 ∧
        ∃ r ∈ sources i, produces s s.idex.valid s.idex.cw s.idex.rd r)) ∧
    (effForwarding s = false →
      (stall s = true ↔ effStalls s = true ∧
        ∃ r ∈ sources i, produces s s.idex.valid s.idex.cw s.idex.rd r ∨
          produces s s.exmem.valid s.exmem.cw s.exmem.rd r))) ∧
  (∀ s : State,
    (s.ifid.valid = false ∨ s.ifid.fault ≠ .none ∨ ∃ why, decode s.ifid.instr = .invalid why) → stall s = false)

/-- R269: a tick that both stalls and resolves a taken transfer needs forwarding off, since with forwarding on a stall
needs a load in EX. It holds of the control words the generator produces, which is part of the invariant. -/
def Obligations.StalledTransferNeedsForwardingOff : Prop :=
  ∀ s : State, s.Inv → stall s = true → branchTaken s = true → effForwarding s = false

/-- R270 to R273, R279: with forwarding on, each register operand of the instruction in EX is the value of its youngest
producer in flight; JAL forwards nothing. -/
def Obligations.ForwardingTakesTheYoungestProducer : Prop :=
  ∀ (s : State) (j : Instr), layoutAdmissible s.layout = true → effForwarding s = true → inExecute s j →
    (isJal j = false → youngest s s.idex.rs1Idx s.idex.opA (srcA s)) ∧
    (j.format = .r ∨ j.format = .b → youngest s s.idex.rs2Idx s.idex.opB (regB s)) ∧
    (isStore j = true → youngest s s.idex.rs2Idx s.idex.opB (writeData s)) ∧
    (isJal j = true → controlForwardA s = .noForward ∧ controlForwardB s = .noForward ∧
      controlForwardM s = .noForward)

/-- R277. -/
def Obligations.ZeroRegisterIsNoDependency : Prop :=
  ∀ s : State,
    (s.idex.rd = 0#5 → matchIDEX s = false) ∧ (s.exmem.rd = 0#5 → matchEXMEM s = false) ∧
    (s.ifid.instr.extractLsb' 15 5 = 0#5 → usesRs1 s = false ∧ (idexIn s).opA = 0) ∧
    (s.ifid.instr.extractLsb' 20 5 = 0#5 → usesRs2 s = false ∧ (idexIn s).opB = 0) ∧
    (s.idex.rs1Idx = 0#5 → controlForwardA s = .noForward ∧ srcA s = s.idex.opA) ∧
    (s.idex.rs2Idx = 0#5 → controlForwardB s = .noForward ∧ controlForwardM s = .noForward ∧
      regB s = s.idex.opB ∧ writeData s = s.idex.opB)

/-- R274 and R275: with forwarding disabled the operands are those read in ID; with all three options disabled the whole
bus is neutral, so that a tick which does not halt redirects pc or goes on, and drops nothing. -/
def Obligations.DisabledOptionsLeaveTheBusNeutral : Prop :=
  (∀ s : State, effForwarding s = false →
    controlForwardA s = .noForward ∧ controlForwardB s = .noForward ∧ controlForwardM s = .noForward ∧
    srcA s = s.idex.opA ∧ regB s = s.idex.opB ∧ writeData s = s.idex.opB) ∧
  (∀ s : State, s.model = .general → s.stallsEn = false → s.flushesEn = false → s.forwardingEn = false →
    stall s = false ∧ flush s = false ∧
    controlForwardA s = .noForward ∧ controlForwardB s = .noForward ∧ controlForwardM s = .noForward ∧
    (sigForwardA s).value = 0 ∧ (sigForwardB s).value = 0 ∧ (sigForwardM s).value = 0 ∧
    (sigForwardA s).isActive = false ∧ (sigForwardB s).isActive = false ∧ (sigForwardM s).isActive = false ∧
    (committing s → ∃ t, step s = .next t ∧ t.ifid = ifidIn s ∧ t.idex = idexIn s))

/-- R276: with stalls on, no consumer reaches EX behind a load it needs, so a load's address is never forwarded as its
data; and when a selector, any of the three, does take a load from EX/MEM, its operand is the address. -/
def Obligations.LoadAddressNeverForwardedUnderStalls : Prop :=
  (∀ s : State, committing s → effStalls s = true → ∃ t, step s = .next t ∧
    (controlForwardA t = .fromExMem → fieldOf t.exmem.cw t.layout.resSrc ≠ 1) ∧
    (controlForwardB t = .fromExMem → fieldOf t.exmem.cw t.layout.resSrc ≠ 1) ∧
    (controlForwardM t = .fromExMem → fieldOf t.exmem.cw t.layout.resSrc ≠ 1)) ∧
  (∀ s : State, fieldOf s.exmem.cw s.layout.resSrc = 1 →
    (controlForwardA s = .fromExMem → srcA s = s.exmem.aluResult) ∧
    (controlForwardB s = .fromExMem → regB s = s.exmem.aluResult) ∧
    (controlForwardM s = .fromExMem → writeData s = s.exmem.aluResult))

/-! ## Control words (45_control_word.md) -/

/-- R200 under the default layout, and R201. -/
def Obligations.ControlTableUnderDefaultLayout : Prop :=
  (∀ i : Instr, controlWord CwLayout.default (.instr i) = defaultWord i.mnemonic) ∧
  (∀ (l : CwLayout) (why : InvalidReason), controlWord l (.invalid why) = 0 ∧ unpack l 0 = Control.zero)

/-- R203: under an admissible layout extraction returns each value of an instruction's fields unchanged, and every bit
outside the seven fields is 0. -/
def Obligations.ControlWordRoundTrip : Prop :=
  ∀ l : CwLayout, layoutAdmissible l = true → ∀ i : Instr,
    fieldOf (pack l (decodeControl i)) l.brWr = (decodeControl i).brWr ∧
    fieldOf (pack l (decodeControl i)) l.memWr = (decodeControl i).memWr ∧
    fieldOf (pack l (decodeControl i)) l.aluSrc = (decodeControl i).aluSrc ∧
    fieldOf (pack l (decodeControl i)) l.resSrc = (decodeControl i).resSrc ∧
    fieldOf (pack l (decodeControl i)) l.immSrc = (decodeControl i).immSrc ∧
    fieldOf (pack l (decodeControl i)) l.pcSrc = (decodeControl i).pcSrc ∧
    fieldOf (pack l (decodeControl i)) l.aluCtr = (decodeControl i).aluCtr ∧
    ∀ b, (pack l (decodeControl i)).testBit b = true →
      ∃ f ∈ layoutEntries l, f.position ≤ b ∧ b < f.position + f.width

/-- R203: the behaviour depends on the field values only, so two admissible layouts give the same run but for the
numbers that hold the control words. -/
def Obligations.BehaviourIndependentOfLayout : Prop :=
  ∀ s t : State, sameButLayout s t → ticking s →
    ∃ s' t', step s = .next s' ∧ step t = .next t' ∧ sameButLayout s' t' ∧
      criticalPathTime s = criticalPathTime t

/-! ## Invariants -/

/-- The invariant holds at reset, and after the host's reset of any block that has it. -/
def Obligations.InvariantHoldsAtReset : Prop :=
  State.reset.Inv ∧ ∀ (s : State) (m : Model) (pc : Word), s.Inv → (hostReset m pc s).Inv

/-- Every step of every model keeps the invariant: register 0, the canonical memories, the shapes of the slots, the
agreement of run state and fault record. Two parts of it are the model's choices: the `fault_info` of an untagged slot is
0 (log 18, DEDUCED, where R214 and R219 do not say), and a step of the SingleCycle reference leaves the pipeline registers
alone (log 4). -/
def Obligations.InvariantKeptByEveryStep : Prop := ∀ s t : State, s.Inv → step s = .next t → t.Inv

/-- Every tick retires an instruction or a bubble, and bubbles come from nowhere but reset (four), stalls (one each) and
flushes (two each): the tick counts of 70_reset_and_hazards.md R389 and R390 as an invariant of the four counters. Steps
of the SingleCycle reference are among the steps: that they leave counters and pipeline registers alone is the model's
choice (log 4), not a rule. -/
def Obligations.TicksAreAccountedFor : Prop :=
  (ticksAccounted State.reset ∧ bubblesTogether State.reset) ∧
  ∀ s t : State, bubblesTogether s → ticksAccounted s → step s = .next t →
    bubblesTogether t ∧ ticksAccounted t

/-! ## The pipeline computes what sequential execution computes -/

/-- R232: with all three options on, whatever the program, the pipeline commits what the instruction rules give executed
one after another, and halts with fault F at p exactly when they raise F at p. -/
def Obligations.PipelineMatchesSequentialExecution : Prop :=
  ∀ s : State, startsClean s → fullyEnabled s = true → (∀ n, matchesAfter s n) ∧ haltsTogether s

/-- R264, R387: with stalls and flushes on and forwarding off there is no wrong value either; the cost is in ticks. -/
def Obligations.StallingPipelineMatchesSequentialExecution : Prop :=
  ∀ s : State, startsClean s → effStalls s = true → effFlushes s = true → effForwarding s = false →
    (∀ n, matchesAfter s n) ∧ haltsTogether s

/-- R389: under every setting of the options, from an empty pipeline an instruction retires at least every third tick
once the first has arrived, until the block halts. -/
def Obligations.RetiresAtLeastEveryThirdTick : Prop :=
  ∀ (s : State) (n : Nat), startsClean s →
    ∃ t, stepsTo (3 * n + 4) s t ∧ (t.runState = .haltedFault ∨ s.retiredCount + n ≤ t.retiredCount)

/-! ## The host's calls (49_host_interface.md, 70_reset_and_hazards.md) -/

/-- R21: register 0 discards writes and reads as zero; any other register reads what was written; nothing else changes. -/
def Obligations.RegisterFileWriteThenRead : Prop :=
  ∀ (i : RegIdx) (v : Word) (s : State),
    (i ≠ 0#5 → readRegister i (writeRegister i v s) = v) ∧
    readRegister 0#5 (writeRegister i v s) = 0 ∧ (i = 0#5 → writeRegister i v s = s) ∧
    (∀ r, r ≠ i → readRegister r (writeRegister i v s) = readRegister r s) ∧
    writeRegister i v s = { s with regs := (writeRegister i v s).regs }

/-- R381. -/
def Obligations.ResetLeavesTheStatedState : Prop :=
  ∀ (m : Model) (pc : Word) (s : State),
    (∀ r, readReg (hostReset m pc s) r = 0) ∧ (hostReset m pc s).pc = pc ∧ (hostReset m pc s).status = 0 ∧
    (∀ a, readByte (hostReset m pc s).dmem a = 0) ∧ (hostReset m pc s).imem = s.imem ∧
    (hostReset m pc s).ifid = IFID.zero ∧ (hostReset m pc s).idex = IDEX.zero ∧
    (hostReset m pc s).exmem = EXMEM.zero ∧ (hostReset m pc s).memwb = MEMWB.zero ∧
    (hostReset m pc s).runState = .ready ∧ (hostReset m pc s).faultRecord = FaultRecord.cleared ∧
    (hostReset m pc s).cycleCount = 0 ∧ (hostReset m pc s).retiredCount = 0 ∧
    (hostReset m pc s).stallCount = 0 ∧ (hostReset m pc s).flushCount = 0 ∧ (hostReset m pc s).model = m ∧
    (hostReset m pc s).stallsEn = s.stallsEn ∧ (hostReset m pc s).flushesEn = s.flushesEn ∧
    (hostReset m pc s).forwardingEn = s.forwardingEn ∧ (hostReset m pc s).layout = s.layout ∧
    (hostReset m pc s).delay = s.delay ∧ (hostReset m pc s).memSize = s.memSize

/-- R323, the byte string: copied in from address 0 over a cleared memory with nothing else changed, or refused when it
is longer than the memory; a partial last word is completed by zeros. -/
def Obligations.LoadProgramReplacesInstructionMemory : Prop :=
  ∀ (bytes : List Byte) (s : State),
    (bytes.length ≤ s.memSize → ∃ t, loadProgram bytes s = .ok t ∧
      (∀ a, readByte t.imem a = bytes.getD a 0) ∧ t.imem.wf = true ∧ t.imem.below s.memSize = true ∧
      t = { s with imem := t.imem }) ∧
    (s.memSize < bytes.length → loadProgram bytes s = .failed .programTooLong)

/-- R325: the toggles are set in General; in any other model nothing changes, and the caller is told
InvalidModelTransition. -/
def Obligations.HazardOptionsOnlyInGeneral : Prop :=
  ∀ (a b c : Bool) (s : State),
    (s.model = .general →
      setHazardOptions a b c s = { s with stallsEn := a, flushesEn := b, forwardingEn := c } ∧
      effStalls (setHazardOptions a b c s) = a ∧ effFlushes (setHazardOptions a b c s) = b ∧
      effForwarding (setHazardOptions a b c s) = c ∧
      setHazardOptionsCall a b c s = (setHazardOptions a b c s, .optionsSet)) ∧
    (s.model ≠ .general → setHazardOptions a b c s = s ∧
      setHazardOptionsCall a b c s = (s, .invalidModelTransition))

/-- R327, R66: the host's word accesses obey the alignment and range checks, tell the caller, and leave everything as it
was; a written word is read back, and every other byte keeps its value. -/
def Obligations.HostWordAccess : Prop :=
  ∀ (a v : Word) (s : State), s.dmem.wf = true →
    (a.toNat % 4 = 0 → a.toNat + 3 < s.memSize → ∃ t, hostWriteWord a v s = .ok t ∧ hostReadWord a t = .ok v ∧
      (∀ b : Nat, b < a.toNat ∨ a.toNat + 4 ≤ b → readByte t.dmem b = readByte s.dmem b) ∧
      t = { s with dmem := t.dmem }) ∧
    (a.toNat % 4 ≠ 0 → hostWriteWord a v s = .failed (.access .alignment a) ∧
      hostReadWord a s = .failed (.access .alignment a)) ∧
    (a.toNat % 4 = 0 → s.memSize ≤ a.toNat + 3 → hostWriteWord a v s = .failed (.access .range a) ∧
      hostReadWord a s = .failed (.access .range a))

/-- R329: "`step(); step_back()` restores exactly S", run state and fault record included, for any bound that keeps one
entry; on an empty history there is nothing to undo. -/
def Obligations.StepBackRestoresTheBlock : Prop :=
  (∀ x y : Session, x.bound ≠ some 0 → sessionStep x = .next y →
    ∃ z, stepBack y = .restored z ∧ z.block = x.block) ∧
  (∀ x : Session, x.history = [] → stepBack x = .nothingToUndo)

/-- R328: what each result of `steps_until` says of the block it leaves, for every positive step cap. The search stops
after the first step, of at most `cap`, that gives a reason to: pc is a breakpoint; the compared state, which has no run
state and no counter in it, is one seen before; all `cap` steps are made; or the block has halted. A search is refused
where the block has no step (log 7). (The order of the tests, and that the state the search starts in counts as seen, are
the model's choice, log 12.) -/
def Obligations.StepsUntilResultsAreTrue : Prop :=
  ∀ (cap : Nat) (breakpoints : List Word) (x y : Session) (r : RunResult), 0 < cap →
    searchUntil cap breakpoints [loopKey x.block] x = (y, r) →
    (r = .refused → step y.block = .refused .layoutNotAdmissible) ∧
    (r ≠ .refused → ∃ (n : Nat) (v : State), 0 < n ∧ n ≤ cap ∧ stepsTo n x.block v ∧
      (∀ k u, 0 < k → k < n → stepsTo k x.block u → searchGoesOn breakpoints x.block k u) ∧
      (r = .hitBreakpoint → y.block = v ∧ v.pc ∈ breakpoints ∧ v.runState = .ready) ∧
      (r = .loopDetected → y.block = setRunState v .infiniteLoopDetected ∧ loopKey y.block = loopKey v ∧
        seenBefore x.block n v) ∧
      (r = .stepCapReached → n = cap ∧ y.block = v ∧ searchGoesOn breakpoints x.block n v) ∧
      (r = .fault → y.block = v ∧ v.runState = .haltedFault))

/-- R96: an assembled text is one well-formed instruction a line that has one, four bytes each, in order: the instruction
at offset `4 * n` is what the `n`-th such line writes, with every label it names at the offset of an instruction the label
stands before, and the relative immediate `L - p`. (That a label after the last instruction has the offset one past it,
and that the first of several definitions counts, is the model's choice, log 16.) -/
def Obligations.AssembledBytesAreEncodedInstructions : Prop :=
  ∀ (lines : List AsmLine) (bytes : List Byte), assemble lines = .ok bytes →
    ∃ is : List Instr, is.length = (lines.filterMap AsmLine.op).length ∧
      (∀ i ∈ is, i.wellFormed = true) ∧ bytes = is.flatMap (fun i => bytesOfWord (encode i)) ∧
      (∀ (n : Nat) (op : AsmOp) (i : Instr), (lines.filterMap AsmLine.op)[n]? = some op → is[n]? = some i →
        assembleOp (labelOffset lines 0) (4 * n) op = some i ∧
        writtenAs (labelOffset lines 0) (4 * n) op i) ∧
      (∀ (label : String) (offset : Nat), labelOffset lines 0 label = some offset →
        ∃ (k : Nat) (line : AsmLine), lines[k]? = some line ∧ label ∈ line.labels ∧
          offset = 4 * ((lines.take k).filterMap AsmLine.op).length)

/-! ## What does not matter -/

/-- 10_state.md R27: nothing depends on `status`: two states that differ in it alone step to states that differ in it
alone. -/
def Obligations.NothingDependsOnStatus : Prop :=
  ∀ s t s' : State, sameButStatus s t → step s = .next s' → ∃ t', step t = .next t' ∧ sameButStatus s' t'

/-- 48_timed_datapath.md R302: the effect of a step is the same for every `DELAY`. -/
def Obligations.StepIndependentOfDelay : Prop :=
  ∀ s t s' : State, sameButDelay s t → step s = .next s' → ∃ t', step t = .next t' ∧ sameButDelay s' t'

/-! ## Timed signals (48_timed_datapath.md) -/

/-- R295, with R294's "An inactive signal has `ready_at = 0`". -/
def Obligations.CriticalPathIsTheLatestActiveSignal : Prop :=
  ∀ s : State,
    (∀ g ∈ signalTimings (signals s), g.isActive = true → g.readyAt ≤ criticalPathTime s) ∧
    (∃ g ∈ signalTimings (signals s), g.isActive = true ∧ g.readyAt = criticalPathTime s) ∧
    (∀ g ∈ signalTimings (signals s), g.isActive = false → g.readyAt = 0) ∧
    (signals s).pc.isActive = true

/-- R301: with the default delays the largest critical-path time any tick can have is 8. -/
def Obligations.CriticalPathAtMostEight : Prop :=
  (∀ s : State, s.delay = Delay.default → criticalPathTime s ≤ 8) ∧
  (∃ s : State, s.delay = Delay.default ∧ criticalPathTime s = 8)

/-- R294: enlarging any delay never makes any `ready_at` smaller, and changes no activity. -/
def Obligations.ReadinessIsMonotoneInDelays : Prop :=
  ∀ (s : State) (e : Delay), delaysLe s.delay e →
    List.Forall₂ (fun g h : Timing => g.readyAt ≤ h.readyAt ∧ g.isActive = h.isActive)
      (signalTimings (signals s)) (signalTimings (signals { s with delay := e })) ∧
    criticalPathTime s ≤ criticalPathTime { s with delay := e }

/-- R292: no signal is ready before a signal it depends on, by the dependencies R296 to R300 list. -/
def Obligations.ReadinessRespectsDependencies : Prop :=
  ∀ s : State,
    waitsFor (sigPcPlus4 s) (sigPc s) ∧ waitsFor (sigInstr s) (sigPc s) ∧
    waitsFor (sigPcNext s) (sigPcPlus4 s) ∧ waitsFor (sigPcNext s) (sigStall s) ∧
    waitsFor (sigPcNext s) (sigBranchTaken s) ∧ waitsFor (sigPcNext s) (sigPcTarget s) ∧
    waitsFor (sigControlWord s) (sigOpcode s) ∧ waitsFor (sigControlWord s) (sigFunct3 s) ∧
    waitsFor (sigControlWord s) (sigFunct7 s) ∧ waitsFor (sigImmExt s) (sigControlWord s) ∧
    waitsFor (sigRD1 s) (sigRs1 s) ∧ waitsFor (sigRD2 s) (sigRs2 s) ∧
    (wbEn s = true → s.memwb.rd = fieldRs1 s.ifid.instr → waitsFor (sigRD1 s) (sigResult s)) ∧
    (wbEn s = true → s.memwb.rd = fieldRs2 s.ifid.instr → waitsFor (sigRD2 s) (sigResult s)) ∧
    waitsFor (sigStall s) (sigOpcode s) ∧ waitsFor (sigStall s) (sigRs1 s) ∧ waitsFor (sigStall s) (sigRs2 s) ∧
    waitsFor (sigForwardA s) (sigControlForwardA s) ∧ waitsFor (sigForwardB s) (sigControlForwardB s) ∧
    waitsFor (sigForwardM s) (sigControlForwardM s) ∧
    (controlForwardA s = .fromMemWb → waitsFor (sigForwardA s) (sigResult s)) ∧
    (controlForwardB s = .fromMemWb → waitsFor (sigForwardB s) (sigResult s)) ∧
    (controlForwardM s = .fromMemWb → waitsFor (sigForwardM s) (sigResult s)) ∧
    waitsFor (sigSrcA s) (sigControlForwardA s) ∧ waitsFor (sigSrcA s) (sigForwardA s) ∧
    waitsFor (sigRegB s) (sigControlForwardB s) ∧ waitsFor (sigRegB s) (sigForwardB s) ∧
    waitsFor (sigWriteData s) (sigControlForwardM s) ∧ waitsFor (sigWriteData s) (sigForwardM s) ∧
    waitsFor (sigSrcB s) (sigRegB s) ∧ waitsFor (sigAluResult s) (sigSrcA s) ∧
    waitsFor (sigAluResult s) (sigSrcB s) ∧ waitsFor (sigAluZero s) (sigAluResult s) ∧
    ((exCtl s).pcSrc ≠ 4 → waitsFor (sigPcTarget s) (sigPcBranch s)) ∧
    ((exCtl s).pcSrc = 4 → waitsFor (sigPcTarget s) (sigAluResult s)) ∧
    waitsFor (sigBranchTaken s) (sigAluZero s) ∧ waitsFor (sigFlush s) (sigBranchTaken s) ∧
    waitsFor (sigMemRData s) (sigMemAddr s)

/-- R292, R298: which EX signals are active, by the instruction in EX; in particular "`ALU_zero` is inactive for
non-branch instructions". The selectors need forwarding on, and a forwarded value is active when its selector is not 0. A
bubble and a tagged slot route through none. -/
def Obligations.ExecuteSignalsActiveByInstruction : Prop :=
  (∀ (s : State) (j : Instr), layoutAdmissible s.layout = true → inExecute s j →
    (sigAluZero s).isActive = isBranch j ∧
    (sigAluResult s).isActive = !isJal j ∧
    (sigSrcA s).isActive = !isJal j ∧
    (sigSrcB s).isActive = !isJal j ∧
    (sigRegB s).isActive = (j.format == .r || j.format == .b) ∧
    (sigWriteData s).isActive = isStore j ∧
    (sigPcBranch s).isActive = (isBranch j || isJal j) ∧
    (sigPcTarget s).isActive = (isBranch j || isJal j || isJalr j) ∧
    (sigBranchTaken s).isActive = (isBranch j || isJal j || isJalr j) ∧
    (sigControlForwardA s).isActive = (effForwarding s && !isJal j) ∧
    (sigControlForwardB s).isActive = (effForwarding s && (j.format == .r || j.format == .b)) ∧
    (sigControlForwardM s).isActive = (effForwarding s && isStore j) ∧
    (sigForwardA s).isActive = (controlForwardA s != .noForward) ∧
    (sigForwardB s).isActive = (controlForwardB s != .noForward) ∧
    (sigForwardM s).isActive = (controlForwardM s != .noForward)) ∧
  (∀ s : State, (s.idex.valid = false ∨ s.idex.fault ≠ .none) →
    (sigAluZero s).isActive = false ∧ (sigAluResult s).isActive = false ∧ (sigSrcA s).isActive = false ∧
    (sigRegB s).isActive = false ∧ (sigWriteData s).isActive = false ∧ (sigSrcB s).isActive = false ∧
    (sigPcBranch s).isActive = false ∧ (sigPcTarget s).isActive = false ∧ (sigBranchTaken s).isActive = false ∧
    (sigControlForwardA s).isActive = false ∧ (sigControlForwardB s).isActive = false ∧
    (sigControlForwardM s).isActive = false ∧ (sigForwardA s).isActive = false ∧ (sigForwardB s).isActive = false ∧
    (sigForwardM s).isActive = false)
end

