-- ==== Sys2Proof/Laws/Encoding.lean ====
section
/-! SUPPORT. The encoders bit by bit, the fields of an encoded word, and a word put together again from its fields
(30_encoding.md R81, R82). -/

namespace Sys2Proof

/-! ## Bits of the encoders -/

theorem getLsbD_encodeR (f7 : BitVec 7) (r2 r1 : RegIdx) (f3 : BitVec 3) (rd : RegIdx) (op : BitVec 7) (i : Nat) :
    (encodeR f7 r2 r1 f3 rd op).getLsbD i =
      if i < 7 then op.getLsbD i else if i < 12 then rd.getLsbD (i - 7) else if i < 15 then f3.getLsbD (i - 12)
      else if i < 20 then r1.getLsbD (i - 15) else if i < 25 then r2.getLsbD (i - 20) else f7.getLsbD (i - 25) := by
  change BitVec.getLsbD (w := 7 + 5 + 5 + 3 + 5 + 7) (f7 ++ r2 ++ r1 ++ f3 ++ rd ++ op) i = _
  simp only [BitVec.getLsbD_append, Nat.sub_sub]
  split_ifs <;> first | rfl | omega

theorem getLsbD_encodeI (imm : BitVec 12) (r1 : RegIdx) (f3 : BitVec 3) (rd : RegIdx) (op : BitVec 7) (i : Nat) :
    (encodeI imm r1 f3 rd op).getLsbD i =
      if i < 7 then op.getLsbD i else if i < 12 then rd.getLsbD (i - 7) else if i < 15 then f3.getLsbD (i - 12)
      else if i < 20 then r1.getLsbD (i - 15) else imm.getLsbD (i - 20) := by
  change BitVec.getLsbD (w := 12 + 5 + 3 + 5 + 7) (imm ++ r1 ++ f3 ++ rd ++ op) i = _
  simp only [BitVec.getLsbD_append, Nat.sub_sub]
  split_ifs <;> first | rfl | omega

theorem getLsbD_encodeS (imm : BitVec 12) (r2 r1 : RegIdx) (f3 : BitVec 3) (op : BitVec 7) (i : Nat) :
    (encodeS imm r2 r1 f3 op).getLsbD i =
      if i < 7 then op.getLsbD i else if i < 12 then imm.getLsbD (i - 7) else if i < 15 then f3.getLsbD (i - 12)
      else if i < 20 then r1.getLsbD (i - 15) else if i < 25 then r2.getLsbD (i - 20)
      else if i < 32 then imm.getLsbD (i - 20) else false := by
  change BitVec.getLsbD (w := 7 + 5 + 5 + 3 + 5 + 7) (imm.extractLsb' 5 7 ++ r2 ++ r1 ++ f3 ++ imm.extractLsb' 0 5 ++ op) i = _
  simp only [BitVec.getLsbD_append, Nat.sub_sub, BitVec.getLsbD_extractLsb']
  have h : i < 7 ∨ (7 ≤ i ∧ i < 12) ∨ (12 ≤ i ∧ i < 15) ∨ (15 ≤ i ∧ i < 20) ∨ (20 ≤ i ∧ i < 25) ∨
    (25 ≤ i ∧ i < 32) ∨ 32 ≤ i := by omega
  rcases h with h | h | h | h | h | h | h
  all_goals simp (disch := omega) only [if_pos, if_neg, decide_eq_true, decide_eq_false, Bool.true_and,
    Bool.false_and]
  all_goals first | rfl | (congr 1; omega)

theorem getLsbD_encodeB (imm : BitVec 13) (r2 r1 : RegIdx) (f3 : BitVec 3) (op : BitVec 7) (i : Nat) :
    (encodeB imm r2 r1 f3 op).getLsbD i =
      if i < 7 then op.getLsbD i else if i < 8 then imm.getLsbD 11 else if i < 12 then imm.getLsbD (i - 7)
      else if i < 15 then f3.getLsbD (i - 12) else if i < 20 then r1.getLsbD (i - 15)
      else if i < 25 then r2.getLsbD (i - 20) else if i < 31 then imm.getLsbD (i - 20)
      else if i < 32 then imm.getLsbD 12 else false := by
  change BitVec.getLsbD (w := 1 + 6 + 5 + 5 + 3 + 4 + 1 + 7) (imm.extractLsb' 12 1 ++ imm.extractLsb' 5 6 ++ r2 ++ r1 ++ f3 ++ imm.extractLsb' 1 4 ++ imm.extractLsb' 11 1
      ++ op) i = _
  simp only [BitVec.getLsbD_append, Nat.sub_sub, BitVec.getLsbD_extractLsb']
  have h : i < 7 ∨ i = 7 ∨ (8 ≤ i ∧ i < 12) ∨ (12 ≤ i ∧ i < 15) ∨ (15 ≤ i ∧ i < 20) ∨ (20 ≤ i ∧ i < 25) ∨
    (25 ≤ i ∧ i < 31) ∨ i = 31 ∨ 32 ≤ i := by omega
  rcases h with h | h | h | h | h | h | h | h | h
  all_goals simp (disch := omega) only [if_pos, if_neg, decide_eq_true, decide_eq_false, Bool.true_and,
    Bool.false_and]
  all_goals first | rfl | (congr 1; omega)

theorem getLsbD_encodeJ (imm : BitVec 21) (rd : RegIdx) (op : BitVec 7) (i : Nat) :
    (encodeJ imm rd op).getLsbD i =
      if i < 7 then op.getLsbD i else if i < 12 then rd.getLsbD (i - 7) else if i < 20 then imm.getLsbD i
      else if i < 21 then imm.getLsbD 11 else if i < 31 then imm.getLsbD (i - 20)
      else if i < 32 then imm.getLsbD 20 else false := by
  change BitVec.getLsbD (w := 1 + 10 + 1 + 8 + 5 + 7) (imm.extractLsb' 20 1 ++ imm.extractLsb' 1 10 ++ imm.extractLsb' 11 1 ++ imm.extractLsb' 12 8 ++ rd ++ op) i = _
  simp only [BitVec.getLsbD_append, Nat.sub_sub, BitVec.getLsbD_extractLsb']
  have h : i < 7 ∨ (7 ≤ i ∧ i < 12) ∨ (12 ≤ i ∧ i < 20) ∨ i = 20 ∨ (21 ≤ i ∧ i < 31) ∨ i = 31 ∨ 32 ≤ i := by omega
  rcases h with h | h | h | h | h | h | h
  all_goals simp (disch := omega) only [if_pos, if_neg, decide_eq_true, decide_eq_false, Bool.true_and,
    Bool.false_and]
  all_goals first | rfl | (congr 1; omega)

/-! ## Bits of the raw immediates -/

theorem getLsbD_rawImmS (w : Word) (i : Nat) :
    (rawImmS w).getLsbD i =
      if i < 5 then w.getLsbD (7 + i) else if i < 12 then w.getLsbD (20 + i) else false := by
  change BitVec.getLsbD (w := 7 + 5) (w.extractLsb' 25 7 ++ w.extractLsb' 7 5) i = _
  simp only [BitVec.getLsbD_append, BitVec.getLsbD_extractLsb']
  have h : i < 5 ∨ (5 ≤ i ∧ i < 12) ∨ 12 ≤ i := by omega
  rcases h with h | h | h
  all_goals simp (disch := omega) only [if_pos, if_neg, decide_eq_true, decide_eq_false, Bool.true_and,
    Bool.false_and]
  all_goals first | rfl | (congr 1; omega)

theorem getLsbD_rawImmB (w : Word) (i : Nat) :
    (rawImmB w).getLsbD i =
      if i < 1 then false else if i < 5 then w.getLsbD (7 + i) else if i < 11 then w.getLsbD (20 + i)
      else if i < 12 then w.getLsbD 7 else if i < 13 then w.getLsbD 31 else false := by
  change BitVec.getLsbD (w := 1 + 1 + 6 + 4 + 1) (w.extractLsb' 31 1 ++ w.extractLsb' 7 1 ++ w.extractLsb' 25 6 ++ w.extractLsb' 8 4 ++ 0#1) i = _
  simp only [BitVec.getLsbD_append, Nat.sub_sub, BitVec.getLsbD_extractLsb', BitVec.getLsbD_zero]
  have h : i < 1 ∨ (1 ≤ i ∧ i < 5) ∨ (5 ≤ i ∧ i < 11) ∨ i = 11 ∨ i = 12 ∨ 13 ≤ i := by omega
  rcases h with h | h | h | h | h | h
  all_goals simp (disch := omega) only [if_pos, if_neg, decide_eq_true, decide_eq_false, Bool.true_and,
    Bool.false_and]
  all_goals first | rfl | (congr 1; omega)

theorem getLsbD_rawImmJ (w : Word) (i : Nat) :
    (rawImmJ w).getLsbD i =
      if i < 1 then false else if i < 11 then w.getLsbD (20 + i) else if i < 12 then w.getLsbD 20
      else if i < 20 then w.getLsbD i else if i < 21 then w.getLsbD 31 else false := by
  change BitVec.getLsbD (w := 1 + 8 + 1 + 10 + 1) (w.extractLsb' 31 1 ++ w.extractLsb' 12 8 ++ w.extractLsb' 20 1 ++ w.extractLsb' 21 10 ++ 0#1) i = _
  simp only [BitVec.getLsbD_append, Nat.sub_sub, BitVec.getLsbD_extractLsb', BitVec.getLsbD_zero]
  have h : i < 1 ∨ (1 ≤ i ∧ i < 11) ∨ i = 11 ∨ (12 ≤ i ∧ i < 20) ∨ i = 20 ∨ 21 ≤ i := by omega
  rcases h with h | h | h | h | h | h
  all_goals simp (disch := omega) only [if_pos, if_neg, decide_eq_true, decide_eq_false, Bool.true_and,
    Bool.false_and]
  all_goals first | rfl | (congr 1; omega)

/-! ## Fields of an encoded word (R81) -/

@[simp] theorem fieldOpcode_encodeR (f7 : BitVec 7) (r2 r1 : RegIdx) (f3 : BitVec 3) (rd : RegIdx) (op : BitVec 7) :
    fieldOpcode (encodeR f7 r2 r1 f3 rd op) = op := by
  apply BitVec.eq_of_getLsbD_eq
  intro i hi
  simp only [fieldOpcode, BitVec.getLsbD_extractLsb', getLsbD_encodeR, hi, decide_true, Bool.true_and]
  simp (disch := omega) only [if_pos, Nat.zero_add]

@[simp] theorem fieldRd_encodeR (f7 : BitVec 7) (r2 r1 : RegIdx) (f3 : BitVec 3) (rd : RegIdx) (op : BitVec 7) :
    fieldRd (encodeR f7 r2 r1 f3 rd op) = rd := by
  apply BitVec.eq_of_getLsbD_eq
  intro i hi
  simp only [fieldRd, BitVec.getLsbD_extractLsb', getLsbD_encodeR, hi, decide_true, Bool.true_and]
  simp (disch := omega) only [if_pos, if_neg]
  congr 1
  omega

@[simp] theorem fieldFunct3_encodeR (f7 : BitVec 7) (r2 r1 : RegIdx) (f3 : BitVec 3) (rd : RegIdx) (op : BitVec 7) :
    fieldFunct3 (encodeR f7 r2 r1 f3 rd op) = f3 := by
  apply BitVec.eq_of_getLsbD_eq
  intro i hi
  simp only [fieldFunct3, BitVec.getLsbD_extractLsb', getLsbD_encodeR, hi, decide_true, Bool.true_and]
  simp (disch := omega) only [if_pos, if_neg]
  congr 1
  omega

@[simp] theorem fieldRs1_encodeR (f7 : BitVec 7) (r2 r1 : RegIdx) (f3 : BitVec 3) (rd : RegIdx) (op : BitVec 7) :
    fieldRs1 (encodeR f7 r2 r1 f3 rd op) = r1 := by
  apply BitVec.eq_of_getLsbD_eq
  intro i hi
  simp only [fieldRs1, BitVec.getLsbD_extractLsb', getLsbD_encodeR, hi, decide_true, Bool.true_and]
  simp (disch := omega) only [if_pos, if_neg]
  congr 1
  omega

@[simp] theorem fieldRs2_encodeR (f7 : BitVec 7) (r2 r1 : RegIdx) (f3 : BitVec 3) (rd : RegIdx) (op : BitVec 7) :
    fieldRs2 (encodeR f7 r2 r1 f3 rd op) = r2 := by
  apply BitVec.eq_of_getLsbD_eq
  intro i hi
  simp only [fieldRs2, BitVec.getLsbD_extractLsb', getLsbD_encodeR, hi, decide_true, Bool.true_and]
  simp (disch := omega) only [if_pos, if_neg]
  congr 1
  omega

@[simp] theorem fieldFunct7_encodeR (f7 : BitVec 7) (r2 r1 : RegIdx) (f3 : BitVec 3) (rd : RegIdx) (op : BitVec 7) :
    fieldFunct7 (encodeR f7 r2 r1 f3 rd op) = f7 := by
  apply BitVec.eq_of_getLsbD_eq
  intro i hi
  simp only [fieldFunct7, BitVec.getLsbD_extractLsb', getLsbD_encodeR, hi, decide_true, Bool.true_and]
  simp (disch := omega) only [if_neg]
  congr 1
  omega

@[simp] theorem rawShamt_encodeR (f7 : BitVec 7) (r2 r1 : RegIdx) (f3 : BitVec 3) (rd : RegIdx) (op : BitVec 7) :
    rawShamt (encodeR f7 r2 r1 f3 rd op) = r2 := by
  apply BitVec.eq_of_getLsbD_eq
  intro i hi
  simp only [rawShamt, BitVec.getLsbD_extractLsb', getLsbD_encodeR, hi, decide_true, Bool.true_and]
  simp (disch := omega) only [if_pos, if_neg]
  congr 1
  omega

@[simp] theorem fieldOpcode_encodeI (imm : BitVec 12) (r1 : RegIdx) (f3 : BitVec 3) (rd : RegIdx) (op : BitVec 7) :
    fieldOpcode (encodeI imm r1 f3 rd op) = op := by
  apply BitVec.eq_of_getLsbD_eq
  intro i hi
  simp only [fieldOpcode, BitVec.getLsbD_extractLsb', getLsbD_encodeI, hi, decide_true, Bool.true_and]
  simp (disch := omega) only [if_pos, Nat.zero_add]

@[simp] theorem fieldRd_encodeI (imm : BitVec 12) (r1 : RegIdx) (f3 : BitVec 3) (rd : RegIdx) (op : BitVec 7) :
    fieldRd (encodeI imm r1 f3 rd op) = rd := by
  apply BitVec.eq_of_getLsbD_eq
  intro i hi
  simp only [fieldRd, BitVec.getLsbD_extractLsb', getLsbD_encodeI, hi, decide_true, Bool.true_and]
  simp (disch := omega) only [if_pos, if_neg]
  congr 1
  omega

@[simp] theorem fieldFunct3_encodeI (imm : BitVec 12) (r1 : RegIdx) (f3 : BitVec 3) (rd : RegIdx) (op : BitVec 7) :
    fieldFunct3 (encodeI imm r1 f3 rd op) = f3 := by
  apply BitVec.eq_of_getLsbD_eq
  intro i hi
  simp only [fieldFunct3, BitVec.getLsbD_extractLsb', getLsbD_encodeI, hi, decide_true, Bool.true_and]
  simp (disch := omega) only [if_pos, if_neg]
  congr 1
  omega

@[simp] theorem fieldRs1_encodeI (imm : BitVec 12) (r1 : RegIdx) (f3 : BitVec 3) (rd : RegIdx) (op : BitVec 7) :
    fieldRs1 (encodeI imm r1 f3 rd op) = r1 := by
  apply BitVec.eq_of_getLsbD_eq
  intro i hi
  simp only [fieldRs1, BitVec.getLsbD_extractLsb', getLsbD_encodeI, hi, decide_true, Bool.true_and]
  simp (disch := omega) only [if_pos, if_neg]
  congr 1
  omega

@[simp] theorem rawImmI_encodeI (imm : BitVec 12) (r1 : RegIdx) (f3 : BitVec 3) (rd : RegIdx) (op : BitVec 7) :
    rawImmI (encodeI imm r1 f3 rd op) = imm := by
  apply BitVec.eq_of_getLsbD_eq
  intro i hi
  simp only [rawImmI, BitVec.getLsbD_extractLsb', getLsbD_encodeI, hi, decide_true, Bool.true_and]
  simp (disch := omega) only [if_neg]
  congr 1
  omega

@[simp] theorem fieldOpcode_encodeS (imm : BitVec 12) (r2 r1 : RegIdx) (f3 : BitVec 3) (op : BitVec 7) :
    fieldOpcode (encodeS imm r2 r1 f3 op) = op := by
  apply BitVec.eq_of_getLsbD_eq
  intro i hi
  simp only [fieldOpcode, BitVec.getLsbD_extractLsb', getLsbD_encodeS, hi, decide_true, Bool.true_and]
  simp (disch := omega) only [if_pos, Nat.zero_add]

@[simp] theorem fieldFunct3_encodeS (imm : BitVec 12) (r2 r1 : RegIdx) (f3 : BitVec 3) (op : BitVec 7) :
    fieldFunct3 (encodeS imm r2 r1 f3 op) = f3 := by
  apply BitVec.eq_of_getLsbD_eq
  intro i hi
  simp only [fieldFunct3, BitVec.getLsbD_extractLsb', getLsbD_encodeS, hi, decide_true, Bool.true_and]
  simp (disch := omega) only [if_pos, if_neg]
  congr 1
  omega

@[simp] theorem fieldRs1_encodeS (imm : BitVec 12) (r2 r1 : RegIdx) (f3 : BitVec 3) (op : BitVec 7) :
    fieldRs1 (encodeS imm r2 r1 f3 op) = r1 := by
  apply BitVec.eq_of_getLsbD_eq
  intro i hi
  simp only [fieldRs1, BitVec.getLsbD_extractLsb', getLsbD_encodeS, hi, decide_true, Bool.true_and]
  simp (disch := omega) only [if_pos, if_neg]
  congr 1
  omega

@[simp] theorem fieldRs2_encodeS (imm : BitVec 12) (r2 r1 : RegIdx) (f3 : BitVec 3) (op : BitVec 7) :
    fieldRs2 (encodeS imm r2 r1 f3 op) = r2 := by
  apply BitVec.eq_of_getLsbD_eq
  intro i hi
  simp only [fieldRs2, BitVec.getLsbD_extractLsb', getLsbD_encodeS, hi, decide_true, Bool.true_and]
  simp (disch := omega) only [if_pos, if_neg]
  congr 1
  omega

@[simp] theorem fieldOpcode_encodeB (imm : BitVec 13) (r2 r1 : RegIdx) (f3 : BitVec 3) (op : BitVec 7) :
    fieldOpcode (encodeB imm r2 r1 f3 op) = op := by
  apply BitVec.eq_of_getLsbD_eq
  intro i hi
  simp only [fieldOpcode, BitVec.getLsbD_extractLsb', getLsbD_encodeB, hi, decide_true, Bool.true_and]
  simp (disch := omega) only [if_pos, Nat.zero_add]

@[simp] theorem fieldFunct3_encodeB (imm : BitVec 13) (r2 r1 : RegIdx) (f3 : BitVec 3) (op : BitVec 7) :
    fieldFunct3 (encodeB imm r2 r1 f3 op) = f3 := by
  apply BitVec.eq_of_getLsbD_eq
  intro i hi
  simp only [fieldFunct3, BitVec.getLsbD_extractLsb', getLsbD_encodeB, hi, decide_true, Bool.true_and]
  simp (disch := omega) only [if_pos, if_neg]
  congr 1
  omega

@[simp] theorem fieldRs1_encodeB (imm : BitVec 13) (r2 r1 : RegIdx) (f3 : BitVec 3) (op : BitVec 7) :
    fieldRs1 (encodeB imm r2 r1 f3 op) = r1 := by
  apply BitVec.eq_of_getLsbD_eq
  intro i hi
  simp only [fieldRs1, BitVec.getLsbD_extractLsb', getLsbD_encodeB, hi, decide_true, Bool.true_and]
  simp (disch := omega) only [if_pos, if_neg]
  congr 1
  omega

@[simp] theorem fieldRs2_encodeB (imm : BitVec 13) (r2 r1 : RegIdx) (f3 : BitVec 3) (op : BitVec 7) :
    fieldRs2 (encodeB imm r2 r1 f3 op) = r2 := by
  apply BitVec.eq_of_getLsbD_eq
  intro i hi
  simp only [fieldRs2, BitVec.getLsbD_extractLsb', getLsbD_encodeB, hi, decide_true, Bool.true_and]
  simp (disch := omega) only [if_pos, if_neg]
  congr 1
  omega

@[simp] theorem fieldOpcode_encodeJ (imm : BitVec 21) (rd : RegIdx) (op : BitVec 7) :
    fieldOpcode (encodeJ imm rd op) = op := by
  apply BitVec.eq_of_getLsbD_eq
  intro i hi
  simp only [fieldOpcode, BitVec.getLsbD_extractLsb', getLsbD_encodeJ, hi, decide_true, Bool.true_and]
  simp (disch := omega) only [if_pos, Nat.zero_add]

@[simp] theorem fieldRd_encodeJ (imm : BitVec 21) (rd : RegIdx) (op : BitVec 7) :
    fieldRd (encodeJ imm rd op) = rd := by
  apply BitVec.eq_of_getLsbD_eq
  intro i hi
  simp only [fieldRd, BitVec.getLsbD_extractLsb', getLsbD_encodeJ, hi, decide_true, Bool.true_and]
  simp (disch := omega) only [if_pos, if_neg]
  congr 1
  omega

@[simp] theorem rawImmS_encodeS (imm : BitVec 12) (r2 r1 : RegIdx) (f3 : BitVec 3) (op : BitVec 7) :
    rawImmS (encodeS imm r2 r1 f3 op) = imm := by
  apply BitVec.eq_of_getLsbD_eq
  intro i hi
  simp only [getLsbD_rawImmS, getLsbD_encodeS]
  have h : i < 5 ∨ 5 ≤ i := by omega
  rcases h with h | h
  all_goals simp (disch := omega) only [if_pos, if_neg]
  all_goals (congr 1; omega)

/-- A B-immediate comes back when it is even (R85). -/
theorem rawImmB_encodeB {imm : BitVec 13} (h : evenOffset13 imm = true) (r2 r1 : RegIdx) (f3 : BitVec 3)
    (op : BitVec 7) : rawImmB (encodeB imm r2 r1 f3 op) = imm := by
  have h0 : imm.getLsbD 0 = false := by simpa [evenOffset13] using h
  apply BitVec.eq_of_getLsbD_eq
  intro i hi
  simp only [getLsbD_rawImmB, getLsbD_encodeB]
  have h : i = 0 ∨ (1 ≤ i ∧ i < 5) ∨ (5 ≤ i ∧ i < 11) ∨ i = 11 ∨ i = 12 := by omega
  rcases h with h | h | h | h | h
  all_goals simp (disch := omega) only [if_pos, if_neg]
  all_goals first | rfl | (congr 1; omega) | (subst h; exact h0.symm)

/-- A J-immediate comes back when it is even (R86). -/
theorem rawImmJ_encodeJ {imm : BitVec 21} (h : evenOffset21 imm = true) (rd : RegIdx) (op : BitVec 7) :
    rawImmJ (encodeJ imm rd op) = imm := by
  have h0 : imm.getLsbD 0 = false := by simpa [evenOffset21] using h
  apply BitVec.eq_of_getLsbD_eq
  intro i hi
  simp only [getLsbD_rawImmJ, getLsbD_encodeJ]
  have h : i = 0 ∨ (1 ≤ i ∧ i < 11) ∨ i = 11 ∨ (12 ≤ i ∧ i < 20) ∨ i = 20 := by omega
  rcases h with h | h | h | h | h
  all_goals simp (disch := omega) only [if_pos, if_neg]
  all_goals first | rfl | (congr 1; omega) | (subst h; exact h0.symm)

/-! ## A word put together again from its fields -/

theorem encodeR_fields (w : Word) :
    encodeR (fieldFunct7 w) (fieldRs2 w) (fieldRs1 w) (fieldFunct3 w) (fieldRd w) (fieldOpcode w) = w := by
  apply BitVec.eq_of_getLsbD_eq
  intro i hi
  simp only [getLsbD_encodeR, fieldFunct7, fieldRs2, fieldRs1, fieldFunct3, fieldRd, fieldOpcode, BitVec.getLsbD_extractLsb']
  have h : i < 7 ∨ (7 ≤ i ∧ i < 12) ∨ (12 ≤ i ∧ i < 15) ∨ (15 ≤ i ∧ i < 20) ∨ (20 ≤ i ∧ i < 25) ∨ 25 ≤ i := by omega
  rcases h with h | h | h | h | h | h
  all_goals simp (disch := omega) only [if_pos, if_neg, decide_eq_true, Bool.true_and]
  all_goals (congr 1; omega)

theorem encodeI_fields (w : Word) :
    encodeI (rawImmI w) (fieldRs1 w) (fieldFunct3 w) (fieldRd w) (fieldOpcode w) = w := by
  apply BitVec.eq_of_getLsbD_eq
  intro i hi
  simp only [getLsbD_encodeI, rawImmI, fieldRs1, fieldFunct3, fieldRd, fieldOpcode, BitVec.getLsbD_extractLsb']
  have h : i < 7 ∨ (7 ≤ i ∧ i < 12) ∨ (12 ≤ i ∧ i < 15) ∨ (15 ≤ i ∧ i < 20) ∨ 20 ≤ i := by omega
  rcases h with h | h | h | h | h
  all_goals simp (disch := omega) only [if_pos, if_neg, decide_eq_true, Bool.true_and]
  all_goals (congr 1; omega)

theorem encodeS_fields (w : Word) :
    encodeS (rawImmS w) (fieldRs2 w) (fieldRs1 w) (fieldFunct3 w) (fieldOpcode w) = w := by
  apply BitVec.eq_of_getLsbD_eq
  intro i hi
  simp only [getLsbD_encodeS, getLsbD_rawImmS, fieldRs2, fieldRs1, fieldFunct3, fieldOpcode, BitVec.getLsbD_extractLsb']
  have h : i < 7 ∨ (7 ≤ i ∧ i < 12) ∨ (12 ≤ i ∧ i < 15) ∨ (15 ≤ i ∧ i < 20) ∨ (20 ≤ i ∧ i < 25) ∨ 25 ≤ i := by omega
  rcases h with h | h | h | h | h | h
  all_goals simp (disch := omega) only [if_pos, if_neg, decide_eq_true, Bool.true_and]
  all_goals (congr 1; omega)

theorem encodeB_fields (w : Word) :
    encodeB (rawImmB w) (fieldRs2 w) (fieldRs1 w) (fieldFunct3 w) (fieldOpcode w) = w := by
  apply BitVec.eq_of_getLsbD_eq
  intro i hi
  simp only [getLsbD_encodeB, getLsbD_rawImmB, fieldRs2, fieldRs1, fieldFunct3, fieldOpcode, BitVec.getLsbD_extractLsb']
  have h : i < 7 ∨ i = 7 ∨ (8 ≤ i ∧ i < 12) ∨ (12 ≤ i ∧ i < 15) ∨ (15 ≤ i ∧ i < 20) ∨ (20 ≤ i ∧ i < 25) ∨
    (25 ≤ i ∧ i < 31) ∨ 31 ≤ i := by omega
  rcases h with h | h | h | h | h | h | h | h
  all_goals simp (disch := omega) only [if_pos, if_neg, decide_eq_true, Bool.true_and]
  all_goals (congr 1; omega)

theorem encodeJ_fields (w : Word) :
    encodeJ (rawImmJ w) (fieldRd w) (fieldOpcode w) = w := by
  apply BitVec.eq_of_getLsbD_eq
  intro i hi
  simp only [getLsbD_encodeJ, getLsbD_rawImmJ, fieldRd, fieldOpcode, BitVec.getLsbD_extractLsb']
  have h : i < 7 ∨ (7 ≤ i ∧ i < 12) ∨ (12 ≤ i ∧ i < 20) ∨ i = 20 ∨ (21 ≤ i ∧ i < 31) ∨ 31 ≤ i := by omega
  rcases h with h | h | h | h | h | h
  all_goals simp (disch := omega) only [if_pos, if_neg, decide_eq_true, Bool.true_and]
  all_goals (congr 1; omega)

end Sys2Proof
end

