-- ==== Sys2Proof/Laws/PerInstr.lean ====
section
/-! SUPPORT. Statements about the instructions as syntax, made per constructor: the field values of each control word
fit the least widths a layout may give the fields (45_control_word.md R193 to R200). -/

namespace Sys2Proof.Laws.ControlFits

open Sys2Proof.Machine

/-- Every field of the instruction's control word is a value its narrowest admissible field can hold. -/
def Statement (i : Instr) : Prop :=
  (decodeControl i).aluCtr < 2 ^ 4 ∧ (decodeControl i).resSrc < 2 ^ 2 ∧ (decodeControl i).immSrc < 2 ^ 2 ∧
  (decodeControl i).pcSrc < 2 ^ 3 ∧ (decodeControl i).aluSrc < 2 ^ 1 ∧ (decodeControl i).brWr < 2 ^ 1 ∧
  (decodeControl i).memWr < 2 ^ 1

/-- All constructors at once. -/
theorem every (i : Instr) : Statement i := by
  cases i <;> simp [Statement, decodeControl, Control.aluOp, Control.zero]
theorem add (rd rs1 rs2 : RegIdx) : Statement (.add rd rs1 rs2) := every _
theorem sub (rd rs1 rs2 : RegIdx) : Statement (.sub rd rs1 rs2) := every _
theorem sll (rd rs1 rs2 : RegIdx) : Statement (.sll rd rs1 rs2) := every _
theorem slt (rd rs1 rs2 : RegIdx) : Statement (.slt rd rs1 rs2) := every _
theorem sltu (rd rs1 rs2 : RegIdx) : Statement (.sltu rd rs1 rs2) := every _
theorem xor (rd rs1 rs2 : RegIdx) : Statement (.xor rd rs1 rs2) := every _
theorem srl (rd rs1 rs2 : RegIdx) : Statement (.srl rd rs1 rs2) := every _
theorem sra (rd rs1 rs2 : RegIdx) : Statement (.sra rd rs1 rs2) := every _
theorem or (rd rs1 rs2 : RegIdx) : Statement (.or rd rs1 rs2) := every _
theorem and (rd rs1 rs2 : RegIdx) : Statement (.and rd rs1 rs2) := every _
theorem addi (rd rs1 : RegIdx) (imm : BitVec 12) : Statement (.addi rd rs1 imm) := every _
theorem slti (rd rs1 : RegIdx) (imm : BitVec 12) : Statement (.slti rd rs1 imm) := every _
theorem sltiu (rd rs1 : RegIdx) (imm : BitVec 12) : Statement (.sltiu rd rs1 imm) := every _
theorem xori (rd rs1 : RegIdx) (imm : BitVec 12) : Statement (.xori rd rs1 imm) := every _
theorem ori (rd rs1 : RegIdx) (imm : BitVec 12) : Statement (.ori rd rs1 imm) := every _
theorem andi (rd rs1 : RegIdx) (imm : BitVec 12) : Statement (.andi rd rs1 imm) := every _
theorem slli (rd rs1 : RegIdx) (shamt : BitVec 5) : Statement (.slli rd rs1 shamt) := every _
theorem srli (rd rs1 : RegIdx) (shamt : BitVec 5) : Statement (.srli rd rs1 shamt) := every _
theorem srai (rd rs1 : RegIdx) (shamt : BitVec 5) : Statement (.srai rd rs1 shamt) := every _
theorem lw (rd rs1 : RegIdx) (imm : BitVec 12) : Statement (.lw rd rs1 imm) := every _
theorem sw (rs2 rs1 : RegIdx) (imm : BitVec 12) : Statement (.sw rs2 rs1 imm) := every _
theorem beq (rs1 rs2 : RegIdx) (imm : BitVec 13) : Statement (.beq rs1 rs2 imm) := every _
theorem bne (rs1 rs2 : RegIdx) (imm : BitVec 13) : Statement (.bne rs1 rs2 imm) := every _
theorem jal (rd : RegIdx) (imm : BitVec 21) : Statement (.jal rd imm) := every _
theorem jalr (rd rs1 : RegIdx) (imm : BitVec 12) : Statement (.jalr rd rs1 imm) := every _

end Sys2Proof.Laws.ControlFits
end

