-- ==== Sys2Proof/Laws/Control.lean ====
section
/-! SUPPORT. Control words taken apart: the formula of 45_control_word.md R191, the zero word, and what an admissible
layout gives (R203). -/

namespace Sys2Proof.Machine

/-- R191's `(w >> p) & (2^n - 1)` as division and remainder. -/
theorem extract_eq (cw : Nat) (f : FieldPos) : extract cw f = cw / 2 ^ f.position % 2 ^ f.width := by
  simp [extract, Nat.shiftRight_eq_div_pow]

@[simp] theorem extract_zero (f : FieldPos) : extract 0 f = 0 := by simp [extract]

/-- The zero word has every field 0 under every layout (R201). -/
@[simp] theorem unpack_zero (l : CwLayout) : unpack l 0 = Control.zero := by simp [unpack, Control.zero]

@[simp] theorem ctl_zero (s : State) : ctl s 0 = Control.zero := by simp [ctl]

/-- The least widths of an admissible layout. -/
theorem widths_of_admissible {l : CwLayout} (h : layoutAdmissible l = true) :
    4 ≤ l.aluCtr.width ∧ 2 ≤ l.resSrc.width ∧ 2 ≤ l.immSrc.width ∧ 3 ≤ l.pcSrc.width ∧ 1 ≤ l.aluSrc.width ∧
      1 ≤ l.brWr.width ∧ 1 ≤ l.memWr.width := by
  simp only [layoutAdmissible, layoutWideEnough, Bool.and_eq_true, decide_eq_true_eq] at h
  tauto

/-- The fields of an admissible layout share no bit. -/
theorem disjoint_of_admissible {l : CwLayout} (h : layoutAdmissible l = true) :
    (layoutEntries l).Pairwise (fun f g => fieldsDisjoint f g = true) := by
  simp only [layoutAdmissible, Bool.and_eq_true, decide_eq_true_eq] at h
  exact h.2

@[simp] theorem default_admissible : layoutAdmissible CwLayout.default = true := by decide

end Sys2Proof.Machine
end

