-- ==== Sys2Proof/Laws/State.lean ====
section
/-! SUPPORT. One lemma per field per update, so that no later proof unfolds a record update. -/

namespace Sys2Proof.Machine

variable (s : State)

/-! ## writeReg -/

@[simp] theorem writeReg_pc (r : RegIdx) (v : Word) : (writeReg s r v).pc = s.pc := rfl
@[simp] theorem writeReg_status (r : RegIdx) (v : Word) : (writeReg s r v).status = s.status := rfl
@[simp] theorem writeReg_imem (r : RegIdx) (v : Word) : (writeReg s r v).imem = s.imem := rfl
@[simp] theorem writeReg_dmem (r : RegIdx) (v : Word) : (writeReg s r v).dmem = s.dmem := rfl
@[simp] theorem writeReg_ifid (r : RegIdx) (v : Word) : (writeReg s r v).ifid = s.ifid := rfl
@[simp] theorem writeReg_idex (r : RegIdx) (v : Word) : (writeReg s r v).idex = s.idex := rfl
@[simp] theorem writeReg_exmem (r : RegIdx) (v : Word) : (writeReg s r v).exmem = s.exmem := rfl
@[simp] theorem writeReg_memwb (r : RegIdx) (v : Word) : (writeReg s r v).memwb = s.memwb := rfl
@[simp] theorem writeReg_runState (r : RegIdx) (v : Word) : (writeReg s r v).runState = s.runState := rfl
@[simp] theorem writeReg_faultRecord (r : RegIdx) (v : Word) : (writeReg s r v).faultRecord = s.faultRecord := rfl
@[simp] theorem writeReg_cycleCount (r : RegIdx) (v : Word) : (writeReg s r v).cycleCount = s.cycleCount := rfl
@[simp] theorem writeReg_retiredCount (r : RegIdx) (v : Word) : (writeReg s r v).retiredCount = s.retiredCount := rfl
@[simp] theorem writeReg_stallCount (r : RegIdx) (v : Word) : (writeReg s r v).stallCount = s.stallCount := rfl
@[simp] theorem writeReg_flushCount (r : RegIdx) (v : Word) : (writeReg s r v).flushCount = s.flushCount := rfl
@[simp] theorem writeReg_model (r : RegIdx) (v : Word) : (writeReg s r v).model = s.model := rfl
@[simp] theorem writeReg_stallsEn (r : RegIdx) (v : Word) : (writeReg s r v).stallsEn = s.stallsEn := rfl
@[simp] theorem writeReg_flushesEn (r : RegIdx) (v : Word) : (writeReg s r v).flushesEn = s.flushesEn := rfl
@[simp] theorem writeReg_forwardingEn (r : RegIdx) (v : Word) : (writeReg s r v).forwardingEn = s.forwardingEn := rfl
@[simp] theorem writeReg_layout (r : RegIdx) (v : Word) : (writeReg s r v).layout = s.layout := rfl
@[simp] theorem writeReg_delay (r : RegIdx) (v : Word) : (writeReg s r v).delay = s.delay := rfl
@[simp] theorem writeReg_memSize (r : RegIdx) (v : Word) : (writeReg s r v).memSize = s.memSize := rfl
@[simp] theorem writeReg_statusDraws (r : RegIdx) (v : Word) : (writeReg s r v).statusDraws = s.statusDraws := rfl

/-! ## setPc -/

@[simp] theorem setPc_regs (t : Word) : (setPc s t).regs = s.regs := rfl
@[simp] theorem setPc_pc (t : Word) : (setPc s t).pc = t := rfl
@[simp] theorem setPc_status (t : Word) : (setPc s t).status = s.status := rfl
@[simp] theorem setPc_imem (t : Word) : (setPc s t).imem = s.imem := rfl
@[simp] theorem setPc_dmem (t : Word) : (setPc s t).dmem = s.dmem := rfl
@[simp] theorem setPc_ifid (t : Word) : (setPc s t).ifid = s.ifid := rfl
@[simp] theorem setPc_idex (t : Word) : (setPc s t).idex = s.idex := rfl
@[simp] theorem setPc_exmem (t : Word) : (setPc s t).exmem = s.exmem := rfl
@[simp] theorem setPc_memwb (t : Word) : (setPc s t).memwb = s.memwb := rfl
@[simp] theorem setPc_runState (t : Word) : (setPc s t).runState = s.runState := rfl
@[simp] theorem setPc_faultRecord (t : Word) : (setPc s t).faultRecord = s.faultRecord := rfl
@[simp] theorem setPc_cycleCount (t : Word) : (setPc s t).cycleCount = s.cycleCount := rfl
@[simp] theorem setPc_retiredCount (t : Word) : (setPc s t).retiredCount = s.retiredCount := rfl
@[simp] theorem setPc_stallCount (t : Word) : (setPc s t).stallCount = s.stallCount := rfl
@[simp] theorem setPc_flushCount (t : Word) : (setPc s t).flushCount = s.flushCount := rfl
@[simp] theorem setPc_model (t : Word) : (setPc s t).model = s.model := rfl
@[simp] theorem setPc_stallsEn (t : Word) : (setPc s t).stallsEn = s.stallsEn := rfl
@[simp] theorem setPc_flushesEn (t : Word) : (setPc s t).flushesEn = s.flushesEn := rfl
@[simp] theorem setPc_forwardingEn (t : Word) : (setPc s t).forwardingEn = s.forwardingEn := rfl
@[simp] theorem setPc_layout (t : Word) : (setPc s t).layout = s.layout := rfl
@[simp] theorem setPc_delay (t : Word) : (setPc s t).delay = s.delay := rfl
@[simp] theorem setPc_memSize (t : Word) : (setPc s t).memSize = s.memSize := rfl
@[simp] theorem setPc_statusDraws (t : Word) : (setPc s t).statusDraws = s.statusDraws := rfl

/-! ## storeWord -/

@[simp] theorem storeWord_regs (a v : Word) : (storeWord s a v).regs = s.regs := rfl
@[simp] theorem storeWord_pc (a v : Word) : (storeWord s a v).pc = s.pc := rfl
@[simp] theorem storeWord_status (a v : Word) : (storeWord s a v).status = s.status := rfl
@[simp] theorem storeWord_imem (a v : Word) : (storeWord s a v).imem = s.imem := rfl
@[simp] theorem storeWord_dmem (a v : Word) : (storeWord s a v).dmem = writeWord s.dmem a.toNat v := rfl
@[simp] theorem storeWord_ifid (a v : Word) : (storeWord s a v).ifid = s.ifid := rfl
@[simp] theorem storeWord_idex (a v : Word) : (storeWord s a v).idex = s.idex := rfl
@[simp] theorem storeWord_exmem (a v : Word) : (storeWord s a v).exmem = s.exmem := rfl
@[simp] theorem storeWord_memwb (a v : Word) : (storeWord s a v).memwb = s.memwb := rfl
@[simp] theorem storeWord_runState (a v : Word) : (storeWord s a v).runState = s.runState := rfl
@[simp] theorem storeWord_faultRecord (a v : Word) : (storeWord s a v).faultRecord = s.faultRecord := rfl
@[simp] theorem storeWord_cycleCount (a v : Word) : (storeWord s a v).cycleCount = s.cycleCount := rfl
@[simp] theorem storeWord_retiredCount (a v : Word) : (storeWord s a v).retiredCount = s.retiredCount := rfl
@[simp] theorem storeWord_stallCount (a v : Word) : (storeWord s a v).stallCount = s.stallCount := rfl
@[simp] theorem storeWord_flushCount (a v : Word) : (storeWord s a v).flushCount = s.flushCount := rfl
@[simp] theorem storeWord_model (a v : Word) : (storeWord s a v).model = s.model := rfl
@[simp] theorem storeWord_stallsEn (a v : Word) : (storeWord s a v).stallsEn = s.stallsEn := rfl
@[simp] theorem storeWord_flushesEn (a v : Word) : (storeWord s a v).flushesEn = s.flushesEn := rfl
@[simp] theorem storeWord_forwardingEn (a v : Word) : (storeWord s a v).forwardingEn = s.forwardingEn := rfl
@[simp] theorem storeWord_layout (a v : Word) : (storeWord s a v).layout = s.layout := rfl
@[simp] theorem storeWord_delay (a v : Word) : (storeWord s a v).delay = s.delay := rfl
@[simp] theorem storeWord_memSize (a v : Word) : (storeWord s a v).memSize = s.memSize := rfl
@[simp] theorem storeWord_statusDraws (a v : Word) : (storeWord s a v).statusDraws = s.statusDraws := rfl

/-! ## setRunState -/

@[simp] theorem setRunState_regs (r : RunState) : (setRunState s r).regs = s.regs := rfl
@[simp] theorem setRunState_pc (r : RunState) : (setRunState s r).pc = s.pc := rfl
@[simp] theorem setRunState_status (r : RunState) : (setRunState s r).status = s.status := rfl
@[simp] theorem setRunState_imem (r : RunState) : (setRunState s r).imem = s.imem := rfl
@[simp] theorem setRunState_dmem (r : RunState) : (setRunState s r).dmem = s.dmem := rfl
@[simp] theorem setRunState_ifid (r : RunState) : (setRunState s r).ifid = s.ifid := rfl
@[simp] theorem setRunState_idex (r : RunState) : (setRunState s r).idex = s.idex := rfl
@[simp] theorem setRunState_exmem (r : RunState) : (setRunState s r).exmem = s.exmem := rfl
@[simp] theorem setRunState_memwb (r : RunState) : (setRunState s r).memwb = s.memwb := rfl
@[simp] theorem setRunState_runState (r : RunState) : (setRunState s r).runState = r := rfl
@[simp] theorem setRunState_faultRecord (r : RunState) : (setRunState s r).faultRecord = s.faultRecord := rfl
@[simp] theorem setRunState_cycleCount (r : RunState) : (setRunState s r).cycleCount = s.cycleCount := rfl
@[simp] theorem setRunState_retiredCount (r : RunState) : (setRunState s r).retiredCount = s.retiredCount := rfl
@[simp] theorem setRunState_stallCount (r : RunState) : (setRunState s r).stallCount = s.stallCount := rfl
@[simp] theorem setRunState_flushCount (r : RunState) : (setRunState s r).flushCount = s.flushCount := rfl
@[simp] theorem setRunState_model (r : RunState) : (setRunState s r).model = s.model := rfl
@[simp] theorem setRunState_stallsEn (r : RunState) : (setRunState s r).stallsEn = s.stallsEn := rfl
@[simp] theorem setRunState_flushesEn (r : RunState) : (setRunState s r).flushesEn = s.flushesEn := rfl
@[simp] theorem setRunState_forwardingEn (r : RunState) : (setRunState s r).forwardingEn = s.forwardingEn := rfl
@[simp] theorem setRunState_layout (r : RunState) : (setRunState s r).layout = s.layout := rfl
@[simp] theorem setRunState_delay (r : RunState) : (setRunState s r).delay = s.delay := rfl
@[simp] theorem setRunState_memSize (r : RunState) : (setRunState s r).memSize = s.memSize := rfl
@[simp] theorem setRunState_statusDraws (r : RunState) : (setRunState s r).statusDraws = s.statusDraws := rfl

/-! ## takeFault -/

@[simp] theorem takeFault_regs (k : FaultTag) (p i : Word) : (takeFault s k p i).regs = s.regs := rfl
@[simp] theorem takeFault_pc (k : FaultTag) (p i : Word) : (takeFault s k p i).pc = s.pc := rfl
@[simp] theorem takeFault_status (k : FaultTag) (p i : Word) : (takeFault s k p i).status = s.status := rfl
@[simp] theorem takeFault_imem (k : FaultTag) (p i : Word) : (takeFault s k p i).imem = s.imem := rfl
@[simp] theorem takeFault_dmem (k : FaultTag) (p i : Word) : (takeFault s k p i).dmem = s.dmem := rfl
@[simp] theorem takeFault_ifid (k : FaultTag) (p i : Word) : (takeFault s k p i).ifid = s.ifid := rfl
@[simp] theorem takeFault_idex (k : FaultTag) (p i : Word) : (takeFault s k p i).idex = s.idex := rfl
@[simp] theorem takeFault_exmem (k : FaultTag) (p i : Word) : (takeFault s k p i).exmem = s.exmem := rfl
@[simp] theorem takeFault_memwb (k : FaultTag) (p i : Word) : (takeFault s k p i).memwb = s.memwb := rfl
@[simp] theorem takeFault_runState (k : FaultTag) (p i : Word) : (takeFault s k p i).runState = .haltedFault := rfl
@[simp] theorem takeFault_faultRecord (k : FaultTag) (p i : Word) : (takeFault s k p i).faultRecord = ⟨k, p, i⟩ := rfl
@[simp] theorem takeFault_cycleCount (k : FaultTag) (p i : Word) : (takeFault s k p i).cycleCount = s.cycleCount := rfl
@[simp] theorem takeFault_retiredCount (k : FaultTag) (p i : Word) : (takeFault s k p i).retiredCount = s.retiredCount := rfl
@[simp] theorem takeFault_stallCount (k : FaultTag) (p i : Word) : (takeFault s k p i).stallCount = s.stallCount := rfl
@[simp] theorem takeFault_flushCount (k : FaultTag) (p i : Word) : (takeFault s k p i).flushCount = s.flushCount := rfl
@[simp] theorem takeFault_model (k : FaultTag) (p i : Word) : (takeFault s k p i).model = s.model := rfl
@[simp] theorem takeFault_stallsEn (k : FaultTag) (p i : Word) : (takeFault s k p i).stallsEn = s.stallsEn := rfl
@[simp] theorem takeFault_flushesEn (k : FaultTag) (p i : Word) : (takeFault s k p i).flushesEn = s.flushesEn := rfl
@[simp] theorem takeFault_forwardingEn (k : FaultTag) (p i : Word) : (takeFault s k p i).forwardingEn = s.forwardingEn := rfl
@[simp] theorem takeFault_layout (k : FaultTag) (p i : Word) : (takeFault s k p i).layout = s.layout := rfl
@[simp] theorem takeFault_delay (k : FaultTag) (p i : Word) : (takeFault s k p i).delay = s.delay := rfl
@[simp] theorem takeFault_memSize (k : FaultTag) (p i : Word) : (takeFault s k p i).memSize = s.memSize := rfl
@[simp] theorem takeFault_statusDraws (k : FaultTag) (p i : Word) : (takeFault s k p i).statusDraws = s.statusDraws := rfl

/-! ## clockEdge -/

@[simp] theorem clockEdge_regs : (clockEdge s).regs = regsNext s := rfl
@[simp] theorem clockEdge_pc : (clockEdge s).pc = pcNext s := rfl
@[simp] theorem clockEdge_status : (clockEdge s).status = Config.freeStatus s.statusDraws := rfl
@[simp] theorem clockEdge_imem : (clockEdge s).imem = s.imem := rfl
@[simp] theorem clockEdge_dmem : (clockEdge s).dmem = dmemNext s := rfl
@[simp] theorem clockEdge_ifid : (clockEdge s).ifid = ifidNext s := rfl
@[simp] theorem clockEdge_idex : (clockEdge s).idex = idexNext s := rfl
@[simp] theorem clockEdge_exmem : (clockEdge s).exmem = exmemIn s := rfl
@[simp] theorem clockEdge_memwb : (clockEdge s).memwb = memwbIn s := rfl
@[simp] theorem clockEdge_runState : (clockEdge s).runState = .ready := rfl
@[simp] theorem clockEdge_faultRecord : (clockEdge s).faultRecord = s.faultRecord := rfl
@[simp] theorem clockEdge_cycleCount : (clockEdge s).cycleCount = s.cycleCount + 1 := rfl
@[simp] theorem clockEdge_retiredCount : (clockEdge s).retiredCount = countIf s.memwb.valid s.retiredCount := rfl
@[simp] theorem clockEdge_stallCount : (clockEdge s).stallCount = countIf (stall s && !flush s) s.stallCount := rfl
@[simp] theorem clockEdge_flushCount : (clockEdge s).flushCount = countIf (flush s) s.flushCount := rfl
@[simp] theorem clockEdge_model : (clockEdge s).model = s.model := rfl
@[simp] theorem clockEdge_stallsEn : (clockEdge s).stallsEn = s.stallsEn := rfl
@[simp] theorem clockEdge_flushesEn : (clockEdge s).flushesEn = s.flushesEn := rfl
@[simp] theorem clockEdge_forwardingEn : (clockEdge s).forwardingEn = s.forwardingEn := rfl
@[simp] theorem clockEdge_layout : (clockEdge s).layout = s.layout := rfl
@[simp] theorem clockEdge_delay : (clockEdge s).delay = s.delay := rfl
@[simp] theorem clockEdge_memSize : (clockEdge s).memSize = s.memSize := rfl
@[simp] theorem clockEdge_statusDraws : (clockEdge s).statusDraws = s.statusDraws + 1 := rfl

/-! ## State.reset -/

@[simp] theorem reset_regs : State.reset.regs = Vector.replicate 32 0 := rfl
@[simp] theorem reset_pc : State.reset.pc = 0 := rfl
@[simp] theorem reset_status : State.reset.status = 0 := rfl
@[simp] theorem reset_imem : State.reset.imem = [] := rfl
@[simp] theorem reset_dmem : State.reset.dmem = [] := rfl
@[simp] theorem reset_ifid : State.reset.ifid = IFID.zero := rfl
@[simp] theorem reset_idex : State.reset.idex = IDEX.zero := rfl
@[simp] theorem reset_exmem : State.reset.exmem = EXMEM.zero := rfl
@[simp] theorem reset_memwb : State.reset.memwb = MEMWB.zero := rfl
@[simp] theorem reset_runState : State.reset.runState = .ready := rfl
@[simp] theorem reset_faultRecord : State.reset.faultRecord = FaultRecord.cleared := rfl
@[simp] theorem reset_cycleCount : State.reset.cycleCount = 0 := rfl
@[simp] theorem reset_retiredCount : State.reset.retiredCount = 0 := rfl
@[simp] theorem reset_stallCount : State.reset.stallCount = 0 := rfl
@[simp] theorem reset_flushCount : State.reset.flushCount = 0 := rfl
@[simp] theorem reset_model : State.reset.model = .general := rfl
@[simp] theorem reset_stallsEn : State.reset.stallsEn = true := rfl
@[simp] theorem reset_flushesEn : State.reset.flushesEn = true := rfl
@[simp] theorem reset_forwardingEn : State.reset.forwardingEn = true := rfl
@[simp] theorem reset_layout : State.reset.layout = CwLayout.default := rfl
@[simp] theorem reset_delay : State.reset.delay = Delay.default := rfl
@[simp] theorem reset_memSize : State.reset.memSize = 1024 := rfl
@[simp] theorem reset_statusDraws : State.reset.statusDraws = 0 := rfl

end Sys2Proof.Machine
end

