-- ==== Sys2Proof/Laws/Memory.lean ====
section
/-! SUPPORT. The laws of byte arrays: read after write, and every operation keeps the canonical form. -/

namespace Sys2Proof.Machine

/-! ## The canonical form as propositions -/

theorem wf_iff (m : Memory) :
    m.wf = true ↔ m.Pairwise (fun c d => c.1 < d.1) ∧ ∀ c ∈ m, c.2 ≠ unlistedByte := by
  simp [Memory.wf]

theorem below_iff (m : Memory) (n : Nat) : m.below n = true ↔ ∀ c ∈ m, c.1 < n := by
  simp [Memory.below]

theorem wf_nil : Memory.wf [] = true := rfl

theorem below_nil (n : Nat) : Memory.below [] n = true := rfl

theorem wf_tail {k : Nat} {x : Byte} {m : Memory} (h : Memory.wf ((k, x) :: m) = true) : m.wf = true := by
  rw [wf_iff] at h ⊢
  exact ⟨(List.pairwise_cons.1 h.1).2, fun c hc => h.2 c (List.mem_cons_of_mem _ hc)⟩

/-- Every address of a canonical tail lies above the head's. -/
theorem head_lt_tail {k : Nat} {x : Byte} {m : Memory} (h : Memory.wf ((k, x) :: m) = true) : ∀ c ∈ m, k < c.1 := by
  rw [wf_iff] at h
  exact (List.pairwise_cons.1 h.1).1

theorem wf_cons {k : Nat} {x : Byte} {m : Memory} (hx : x ≠ unlistedByte) (hm : m.wf = true)
    (hk : ∀ c ∈ m, k < c.1) : Memory.wf ((k, x) :: m) = true := by
  rw [wf_iff] at hm ⊢
  refine ⟨List.pairwise_cons.2 ⟨hk, hm.1⟩, fun c hc => ?_⟩
  rcases List.mem_cons.1 hc with rfl | hc
  · exact hx
  · exact hm.2 c hc

theorem head_listed {k : Nat} {x : Byte} {m : Memory} (h : Memory.wf ((k, x) :: m) = true) : x ≠ unlistedByte := by
  rw [wf_iff] at h
  exact h.2 (k, x) (List.mem_cons_self ..)

/-- An address below every listed one reads as unlisted. -/
theorem readByte_of_lt {m : Memory} {a : Nat} (h : ∀ c ∈ m, a < c.1) : readByte m a = unlistedByte := by
  cases m with
  | nil => rfl
  | cons c m => simp [readByte, h c (List.mem_cons_self ..)]

/-! ## writeByte -/

/-- What a byte write can put into the list: old entries and the new one. -/
theorem mem_writeByte {m : Memory} {a : Nat} {v : Byte} {c : Host.Cell} (h : c ∈ writeByte m a v) :
    c ∈ m ∨ c = (a, v) := by
  induction m with
  | nil =>
    simp only [writeByte] at h
    split at h
    · cases h
    · exact .inr (List.mem_singleton.1 h)
  | cons d m ih =>
    obtain ⟨k, x⟩ := d
    simp only [writeByte] at h
    split at h
    · rcases List.mem_cons.1 h with rfl | h
      · exact .inl (List.mem_cons_self ..)
      · exact (ih h).imp (List.mem_cons_of_mem _) id
    · split at h
      · split at h
        · exact .inl (List.mem_cons_of_mem _ h)
        · rcases List.mem_cons.1 h with rfl | h
          · exact .inr rfl
          · exact .inl (List.mem_cons_of_mem _ h)
      · split at h
        · exact .inl h
        · rcases List.mem_cons.1 h with rfl | h
          · exact .inr rfl
          · exact .inl h

theorem wf_writeByte {m : Memory} (h : m.wf = true) (a : Nat) (v : Byte) : (writeByte m a v).wf = true := by
  induction m with
  | nil =>
    simp only [writeByte]
    split
    · rfl
    · rename_i hv
      exact wf_cons hv wf_nil (by simp)
  | cons d m ih =>
    obtain ⟨k, x⟩ := d
    have htl := head_lt_tail h
    simp only [writeByte]
    split
    · rename_i hka
      refine wf_cons (head_listed h) (ih (wf_tail h)) fun c hc => ?_
      rcases mem_writeByte hc with hc | rfl
      · exact htl c hc
      · exact hka
    · split
      · rename_i hka
        subst hka
        split
        · exact wf_tail h
        · rename_i hv
          exact wf_cons hv (wf_tail h) htl
      · split
        · exact h
        · rename_i hv
          refine wf_cons hv h fun c hc => ?_
          rcases List.mem_cons.1 hc with rfl | hc
          · simp only; omega
          · have := htl c hc; omega

theorem below_writeByte {m : Memory} {n a : Nat} (h : m.below n = true) (ha : a < n) (v : Byte) :
    (writeByte m a v).below n = true := by
  rw [below_iff] at h ⊢
  intro c hc
  rcases mem_writeByte hc with hc | rfl
  · exact h c hc
  · exact ha

/-- Read after write of one byte: the written address gives the value, every other its old value. -/
theorem readByte_writeByte {m : Memory} (h : m.wf = true) (a b : Nat) (v : Byte) :
    readByte (writeByte m a v) b = if b = a then v else readByte m b := by
  induction m with
  | nil =>
    simp only [writeByte]
    by_cases hv : v = unlistedByte
    · simp [hv, readByte]
    · simp only [hv, if_false, readByte]
      by_cases hba : b = a
      · simp [hba]
      · simp [hba]
  | cons d m ih =>
    obtain ⟨k, x⟩ := d
    have htl := head_lt_tail h
    simp only [writeByte]
    by_cases hka : k < a
    · simp only [hka, if_true, readByte, ih (wf_tail h)]
      by_cases hba : b = a
      · subst hba
        have h1 : ¬ b < k := by omega
        have h2 : ¬ b = k := by omega
        simp [h1, h2]
      · simp [hba]
    · simp only [hka, if_false]
      by_cases hke : k = a
      · subst hke
        simp only [if_true]
        by_cases hv : v = unlistedByte
        · simp only [hv, if_true]
          by_cases hbk : b = k
          · subst hbk
            rw [readByte_of_lt htl]; simp
          · simp only [hbk, if_false, readByte]
            by_cases hlt : b < k
            · rw [readByte_of_lt fun c hc => Nat.lt_trans hlt (htl c hc)]; simp [hlt]
            · simp [hlt]
        · simp only [hv, if_false, readByte]
          by_cases hbk : b = k
          · simp [hbk]
          · simp [hbk]
      · simp only [hke, if_false]
        have hak : a < k := by omega
        by_cases hv : v = unlistedByte
        · simp only [hv, if_true]
          by_cases hba : b = a
          · subst hba; simp [readByte, hak]
          · simp [hba]
        · simp only [hv, if_false, readByte]
          by_cases hba : b = a
          · simp [hba]
          · simp only [hba, if_false]
            by_cases hlt : b < a
            · simp [hlt, show b < k by omega]
            · simp [hlt]

/-! ## Words -/

theorem wf_writeWord {m : Memory} (h : m.wf = true) (a : Nat) (v : Word) : (writeWord m a v).wf = true :=
  wf_writeByte (wf_writeByte (wf_writeByte (wf_writeByte h _ _) _ _) _ _) _ _

theorem below_writeWord {m : Memory} {n a : Nat} (h : m.below n = true) (ha : a + 3 < n) (v : Word) :
    (writeWord m a v).below n = true :=
  below_writeByte (below_writeByte (below_writeByte (below_writeByte h (by omega) _) (by omega) _) (by omega) _)
    (by omega) _

/-- A word write sets four bytes and no other (20_memory.md R53). -/
theorem readByte_writeWord {m : Memory} (h : m.wf = true) (a b : Nat) (v : Word) :
    readByte (writeWord m a v) b =
      if b = a then byteOfWord v 0 else if b = a + 1 then byteOfWord v 1 else if b = a + 2 then byteOfWord v 2
      else if b = a + 3 then byteOfWord v 3 else readByte m b := by
  have h1 := wf_writeByte h a (byteOfWord v 0)
  have h2 := wf_writeByte h1 (a + 1) (byteOfWord v 1)
  have h3 := wf_writeByte h2 (a + 2) (byteOfWord v 2)
  rw [writeWord, readByte_writeByte h3, readByte_writeByte h2, readByte_writeByte h1, readByte_writeByte h]
  by_cases e0 : b = a
  · simp [e0]
  · by_cases e1 : b = a + 1
    · simp [e1]
    · by_cases e2 : b = a + 2
      · simp [e2]
      · by_cases e3 : b = a + 3
        · simp [e3]
        · simp [e0, e1, e2, e3]

theorem readByte_writeWord_outside {m : Memory} (h : m.wf = true) {a b : Nat} (v : Word) (hb : b < a ∨ a + 3 < b) :
    readByte (writeWord m a v) b = readByte m b := by
  rw [readByte_writeWord h, if_neg (by omega), if_neg (by omega), if_neg (by omega), if_neg (by omega)]

/-- A word read at the address just written gives the word (20_memory.md R53). -/
theorem readWord_writeWord_same {m : Memory} (h : m.wf = true) (a : Nat) (v : Word) :
    readWord (writeWord m a v) a = v := by
  rw [readWord, readByte_writeWord h, readByte_writeWord h, readByte_writeWord h, readByte_writeWord h, if_pos rfl,
    if_neg (by omega), if_pos rfl, if_neg (by omega), if_neg (by omega), if_pos rfl, if_neg (by omega),
    if_neg (by omega), if_neg (by omega), if_pos rfl]
  exact wordOfBytes_bytes v

/-- A word read clear of the word written gives what it gave. -/
theorem readWord_writeWord_apart {m : Memory} (h : m.wf = true) {a b : Nat} (v : Word) (hab : b + 3 < a ∨ a + 3 < b) :
    readWord (writeWord m a v) b = readWord m b := by
  simp only [readWord]
  rw [readByte_writeWord_outside h v (by omega), readByte_writeWord_outside h v (by omega),
    readByte_writeWord_outside h v (by omega), readByte_writeWord_outside h v (by omega)]

/-! ## Byte strings -/

theorem le_of_mem_memoryOfBytes {bs : List Byte} {a : Nat} {c : Host.Cell} (h : c ∈ memoryOfBytes a bs) :
    a ≤ c.1 ∧ c.1 < a + bs.length := by
  induction bs generalizing a with
  | nil => cases h
  | cons b bs ih =>
    simp only [memoryOfBytes] at h
    simp only [List.length_cons]
    split at h
    · have := ih h; omega
    · rcases List.mem_cons.1 h with rfl | h
      · simp only; omega
      · have := ih h; omega

theorem wf_memoryOfBytes (a : Nat) (bs : List Byte) : (memoryOfBytes a bs).wf = true := by
  induction bs generalizing a with
  | nil => rfl
  | cons b bs ih =>
    simp only [memoryOfBytes]
    split
    · exact ih _
    · rename_i hb
      exact wf_cons hb (ih _) fun c hc => by have := le_of_mem_memoryOfBytes hc; omega

theorem below_memoryOfBytes {bs : List Byte} {n : Nat} (h : bs.length ≤ n) : (memoryOfBytes 0 bs).below n = true := by
  rw [below_iff]
  intro c hc
  have := le_of_mem_memoryOfBytes hc
  omega

/-! ## Equal memories are equal data -/

theorem eq_of_readByte_eq {m n : Memory} (hm : m.wf = true) (hn : n.wf = true)
    (h : ∀ a, readByte m a = readByte n a) : m = n := by
  induction m generalizing n with
  | nil =>
    cases n with
    | nil => rfl
    | cons d n =>
      exact absurd (by simpa [readByte] using (h d.1).symm) (head_listed hn)
  | cons c m ih =>
    obtain ⟨k, x⟩ := c
    cases n with
    | nil => exact absurd (by simpa [readByte] using h k) (head_listed hm)
    | cons d n =>
      obtain ⟨l, y⟩ := d
      have hkl : k = l := by
        rcases Nat.lt_trichotomy k l with hlt | heq | hgt
        · have := h k
          simp only [readByte, Nat.lt_irrefl, if_false, if_true, hlt] at this
          exact absurd this (head_listed hm)
        · exact heq
        · have := h l
          simp only [readByte, Nat.lt_irrefl, if_false, if_true, hgt] at this
          exact absurd this.symm (head_listed hn)
      subst hkl
      have hxy : x = y := by simpa [readByte] using h k
      subst hxy
      congr 1
      refine ih (wf_tail hm) (wf_tail hn) fun a => ?_
      by_cases hak : a ≤ k
      · rw [readByte_of_lt fun c hc => Nat.lt_of_le_of_lt hak (head_lt_tail hm c hc),
          readByte_of_lt fun c hc => Nat.lt_of_le_of_lt hak (head_lt_tail hn c hc)]
      · have := h a
        simpa [readByte, show ¬ a < k by omega, show ¬ a = k by omega] using this

/-- Both memories are in canonical form at reset: nothing is listed. -/
theorem wf_reset : State.reset.imem.wf = true ∧ State.reset.dmem.wf = true := ⟨rfl, rfl⟩

end Sys2Proof.Machine
end

