-- ==== Sys2Proof/Laws/Ops.lean ====
section
/-! SUPPORT. One lemma per shared operation that says everything it can do: registers, checks, the shared shapes of the
meanings. Provers cite these instead of unfolding. -/

namespace Sys2Proof.Machine

/-! ## Registers (10_state.md R20, R21) -/

@[simp] theorem readReg_zero (s : State) : readReg s 0#5 = 0 := rfl

theorem readReg_of_ne {r : RegIdx} (h : r ≠ 0#5) (s : State) : readReg s r = s.regs[r.toNat]'r.isLt := by
  simp [readReg, h]

/-- Reading after a register write: the written register unless it is x0, every other register as before. -/
theorem readReg_writeReg (s : State) (r q : RegIdx) (v : Word) :
    readReg (writeReg s r v) q = if q = r ∧ q ≠ 0#5 then v else readReg s q := by
  by_cases hq : q = 0#5
  · simp [hq]
  · by_cases hr : r = 0#5
    · have : q ≠ r := by rw [hr]; exact hq
      simp [readReg_of_ne hq, writeReg, hr, hq]
    · rw [readReg_of_ne hq, readReg_of_ne hq]
      by_cases hqr : q = r
      · subst hqr; simp [writeReg, hq]
      · have hne : r.toNat ≠ q.toNat := fun h => hqr (BitVec.eq_of_toNat_eq h.symm)
        simp [writeReg, hr, hqr, hne]

theorem readReg_writeReg_self (s : State) {r : RegIdx} (h : r ≠ 0#5) (v : Word) :
    readReg (writeReg s r v) r = v := by simp [readReg_writeReg, h]

theorem readReg_writeReg_other (s : State) {r q : RegIdx} (h : q ≠ r) (v : Word) :
    readReg (writeReg s r v) q = readReg s q := by simp [readReg_writeReg, h]

/-- A write to x0 changes nothing. -/
@[simp] theorem writeReg_zero (s : State) (v : Word) : writeReg s 0#5 v = s := by simp [writeReg]

@[simp] theorem readReg_setPc (s : State) (t : Word) (r : RegIdx) : readReg (setPc s t) r = readReg s r := rfl

@[simp] theorem readReg_storeWord (s : State) (a v : Word) (r : RegIdx) :
    readReg (storeWord s a v) r = readReg s r := rfl

@[simp] theorem readReg_takeFault (s : State) (k : FaultTag) (p i : Word) (r : RegIdx) :
    readReg (takeFault s k p i) r = readReg s r := rfl

@[simp] theorem readReg_setRunState (s : State) (x : RunState) (r : RegIdx) :
    readReg (setRunState s x) r = readReg s r := rfl

/-- Two states whose registers read alike and store x0 as 0 have the same register file. -/
theorem regs_eq_of_readReg_eq {s t : State} (hs : zeroRegister s = true) (ht : zeroRegister t = true)
    (h : ∀ r, readReg s r = readReg t r) : s.regs = t.regs := by
  apply Vector.ext
  intro i hi
  by_cases h0 : i = 0
  · subst h0
    simp only [zeroRegister, beq_iff_eq] at hs ht
    rw [hs, ht]
  · have hne : BitVec.ofNat 5 i ≠ 0#5 := by
      intro hc
      have := congrArg BitVec.toNat hc
      simp at this
      omega
    have := h (BitVec.ofNat 5 i)
    rw [readReg_of_ne hne, readReg_of_ne hne] at this
    simpa [Nat.mod_eq_of_lt (show i < 32 from hi)] using this

theorem zeroRegister_writeReg {s : State} (h : zeroRegister s = true) (r : RegIdx) (v : Word) :
    zeroRegister (writeReg s r v) = true := by
  simp only [zeroRegister, beq_iff_eq] at h ⊢
  by_cases hr : r = 0#5
  · simp [hr, h]
  · have hne : r.toNat ≠ 0 := fun hc => hr (BitVec.eq_of_toNat_eq (by simpa using hc))
    simp [writeReg, hr, hne, h]

/-! ## The checks of a word access (20_memory.md R54 to R56) -/

theorem extract_low2 (a : Word) : a.extractLsb' 0 2 = 0#2 ↔ a.toNat % 4 = 0 := by
  rw [← BitVec.toNat_inj]
  simp [BitVec.extractLsb'_toNat]

/-- The three outcomes of the check, by number: alignment is tested first. -/
theorem accessFault_eq (n : Nat) (a : Word) :
    accessFault n a = if a.toNat % 4 ≠ 0 then .alignment else if a.toNat + 3 ≥ n then .range else .none := by
  simp only [accessFault, ne_eq, extract_low2]

theorem accessFault_none_iff (n : Nat) (a : Word) :
    accessFault n a = .none ↔ a.toNat % 4 = 0 ∧ a.toNat + 3 < n := by
  rw [accessFault_eq]
  by_cases h : a.toNat % 4 = 0
  · by_cases h2 : a.toNat + 3 ≥ n
    · simp [h, h2]
    · simp [h, h2]; omega
  · simp [h]

theorem accessFault_alignment_iff (n : Nat) (a : Word) : accessFault n a = .alignment ↔ a.toNat % 4 ≠ 0 := by
  rw [accessFault_eq]
  by_cases h : a.toNat % 4 = 0
  · by_cases h2 : a.toNat + 3 ≥ n <;> simp [h, h2]
  · simp [h]

theorem accessFault_range_iff (n : Nat) (a : Word) :
    accessFault n a = .range ↔ a.toNat % 4 = 0 ∧ n ≤ a.toNat + 3 := by
  rw [accessFault_eq]
  by_cases h : a.toNat % 4 = 0
  · by_cases h2 : a.toNat + 3 ≥ n
    · simp [h, h2]
    · simp [h, h2]
  · simp [h]

theorem accessFault_ne_decode (n : Nat) (a : Word) : accessFault n a ≠ .decode := by
  rw [accessFault_eq]
  split
  · simp
  · split <;> simp

/-! ## The shared shapes of the meanings -/

/-- A result-writing instruction always goes on, with one register and pc changed. -/
theorem writeResult_eq (rd : RegIdx) (v : Word) (s : State) :
    writeResult rd v s = .next (setPc (writeReg s rd v) (s.pc + 4)) := rfl

/-- A data access goes on when its check passes, and takes the fault otherwise. -/
theorem dataAccess_of_ok {a : Word} {s : State} (h : accessFault s.memSize a = .none) (access : State) :
    dataAccess a s access = .next (setPc access (s.pc + 4)) := by
  simp [dataAccess, h, nextPc]

theorem dataAccess_of_fault {a : Word} {s : State} (h : accessFault s.memSize a ≠ .none) (access : State) :
    dataAccess a s access = .next (takeFault s (accessFault s.memSize a) s.pc a) := by
  unfold dataAccess
  cases hf : accessFault s.memSize a with
  | none => exact absurd hf h
  | decode => rfl
  | alignment => rfl
  | range => rfl

/-- Everything one instruction executed alone can do: it goes on with registers, data memory and pc changed, or takes a
fault; it never answers a fault or a refusal of the model. -/
theorem exec_cases (i : Instr) (s : State) :
    (∃ rd v p, exec i s = .next (setPc (writeReg s rd v) p)) ∨
    (∃ p, exec i s = .next (setPc s p)) ∨
    (∃ a v, accessFault s.memSize a = .none ∧ exec i s = .next (setPc (storeWord s a v) (s.pc + 4))) ∨
    (∃ a, accessFault s.memSize a ≠ .none ∧ exec i s = .next (takeFault s (accessFault s.memSize a) s.pc a)) := by
  cases i with
  | lw rd rs1 imm =>
    by_cases h : accessFault s.memSize (effectiveAddress s rs1 imm) = .none
    · exact .inl ⟨_, _, _, dataAccess_of_ok h _⟩
    · exact .inr (.inr (.inr ⟨_, h, dataAccess_of_fault h _⟩))
  | sw rs2 rs1 imm =>
    by_cases h : accessFault s.memSize (effectiveAddress s rs1 imm) = .none
    · exact .inr (.inr (.inl ⟨_, _, h, dataAccess_of_ok h _⟩))
    · exact .inr (.inr (.inr ⟨_, h, dataAccess_of_fault h _⟩))
  | beq _ _ _ => exact .inr (.inl ⟨_, rfl⟩)
  | bne _ _ _ => exact .inr (.inl ⟨_, rfl⟩)
  | jal _ _ => exact .inl ⟨_, _, _, rfl⟩
  | jalr _ _ _ => exact .inl ⟨_, _, _, rfl⟩
  | add _ _ _ => exact .inl ⟨_, _, _, rfl⟩
  | sub _ _ _ => exact .inl ⟨_, _, _, rfl⟩
  | sll _ _ _ => exact .inl ⟨_, _, _, rfl⟩
  | slt _ _ _ => exact .inl ⟨_, _, _, rfl⟩
  | sltu _ _ _ => exact .inl ⟨_, _, _, rfl⟩
  | xor _ _ _ => exact .inl ⟨_, _, _, rfl⟩
  | srl _ _ _ => exact .inl ⟨_, _, _, rfl⟩
  | sra _ _ _ => exact .inl ⟨_, _, _, rfl⟩
  | or _ _ _ => exact .inl ⟨_, _, _, rfl⟩
  | and _ _ _ => exact .inl ⟨_, _, _, rfl⟩
  | addi _ _ _ => exact .inl ⟨_, _, _, rfl⟩
  | slti _ _ _ => exact .inl ⟨_, _, _, rfl⟩
  | sltiu _ _ _ => exact .inl ⟨_, _, _, rfl⟩
  | xori _ _ _ => exact .inl ⟨_, _, _, rfl⟩
  | ori _ _ _ => exact .inl ⟨_, _, _, rfl⟩
  | andi _ _ _ => exact .inl ⟨_, _, _, rfl⟩
  | slli _ _ _ => exact .inl ⟨_, _, _, rfl⟩
  | srli _ _ _ => exact .inl ⟨_, _, _, rfl⟩
  | srai _ _ _ => exact .inl ⟨_, _, _, rfl⟩

end Sys2Proof.Machine
end

