-- ==== Sys2Proof/Laws/Step.lean ====
section
/-! SUPPORT. What a tick, a step of the reference and a step can do, said once. -/

namespace Sys2Proof.Machine

/-- A tick of a halted block changes nothing (46_pipeline_stages.md R211). -/
theorem tick_of_halted {s : State} (h : s.runState = .haltedFault) : tick s = s := by
  simp [tick, h]

/-- A halt tick takes the fault in WB and does nothing else (R222). -/
theorem tick_of_haltTick {s : State} (h : s.runState ≠ .haltedFault) (ht : haltTick s = true) :
    tick s = takeFault s s.memwb.fault s.memwb.pc s.memwb.faultInfo := by
  unfold tick
  cases hr : s.runState with
  | ready => simp [ht]
  | haltedFault => exact absurd hr h
  | infiniteLoopDetected => simp [ht]

/-- Any other tick is one clock edge (R223 to R228). -/
theorem tick_of_edge {s : State} (h : s.runState ≠ .haltedFault) (ht : haltTick s = false) : tick s = clockEdge s := by
  unfold tick
  cases hr : s.runState with
  | ready => simp [ht]
  | haltedFault => exact absurd hr h
  | infiniteLoopDetected => simp [ht]

/-- The three things a tick can do. -/
theorem tick_cases (s : State) :
    (s.runState = .haltedFault ∧ tick s = s) ∨
    (s.runState ≠ .haltedFault ∧ haltTick s = true ∧
      tick s = takeFault s s.memwb.fault s.memwb.pc s.memwb.faultInfo) ∨
    (s.runState ≠ .haltedFault ∧ haltTick s = false ∧ tick s = clockEdge s) := by
  by_cases h : s.runState = .haltedFault
  · exact .inl ⟨h, tick_of_halted h⟩
  · cases ht : haltTick s with
    | true => exact .inr (.inl ⟨h, rfl, tick_of_haltTick h ht⟩)
    | false => exact .inr (.inr ⟨h, rfl, tick_of_edge h ht⟩)

/-- Fetching and executing one instruction: a fetch fault, an invalid word, or the instruction's own effect. -/
theorem fetchAndExec_cases (s : State) :
    (accessFault s.memSize s.pc ≠ .none ∧
      fetchAndExec s = .next (takeFault s (accessFault s.memSize s.pc) s.pc s.pc)) ∨
    (accessFault s.memSize s.pc = .none ∧ (∃ w, decode (fetchWord s s.pc) = .invalid w) ∧
      fetchAndExec s = .next (takeFault s .decode s.pc (fetchWord s s.pc))) ∨
    (accessFault s.memSize s.pc = .none ∧ ∃ i, decode (fetchWord s s.pc) = .instr i ∧ fetchAndExec s = exec i s) := by
  unfold fetchAndExec
  cases hf : accessFault s.memSize s.pc with
  | none =>
    cases hd : decode (fetchWord s s.pc) with
    | instr i => exact .inr (.inr ⟨rfl, i, rfl, rfl⟩)
    | invalid w => exact .inr (.inl ⟨rfl, ⟨w, rfl⟩, rfl⟩)
  | decode => exact .inl ⟨by simp, rfl⟩
  | alignment => exact .inl ⟨by simp, rfl⟩
  | range => exact .inl ⟨by simp, rfl⟩

/-- A step of the reference: nothing when halted, else fetch and execute from Ready. -/
theorem referenceStep_cases (s : State) :
    (s.runState = .haltedFault ∧ referenceStep s = .next s) ∨
    (s.runState = .ready ∧ referenceStep s = fetchAndExec s) ∨
    (s.runState = .infiniteLoopDetected ∧ referenceStep s = fetchAndExec (setRunState s .ready)) := by
  unfold referenceStep
  cases hr : s.runState with
  | haltedFault => exact .inl ⟨rfl, rfl⟩
  | ready => exact .inr (.inl ⟨rfl, rfl⟩)
  | infiniteLoopDetected => exact .inr (.inr ⟨rfl, rfl⟩)

/-- Every way a step can answer a next state. -/
theorem step_next_cases {s t : State} (h : step s = .next t) :
    (s.model = .singleCycle ∧ referenceStep s = .next t) ∨
    (s.model ≠ .singleCycle ∧ layoutAdmissible s.layout = true ∧ t = tick s) := by
  unfold step at h
  cases hm : s.model with
  | singleCycle => rw [hm] at h; exact .inl ⟨rfl, h⟩
  | pipelined =>
    rw [hm] at h
    simp only [tickStep] at h
    split at h
    · rename_i hl; cases h; exact .inr ⟨by simp, hl, rfl⟩
    · cases h
  | general =>
    rw [hm] at h
    simp only [tickStep] at h
    split at h
    · rename_i hl; cases h; exact .inr ⟨by simp, hl, rfl⟩
    · cases h

end Sys2Proof.Machine
end

