-- ==== Sys2Proof/Machine/Ports.lean ====
section
/-! DEFINITION. The block as a clocked circuit: its ports and one rising edge of the clock (49_host_interface.md R320). -/

namespace Sys2Proof.Machine

/-- The numeric fault tag (60_exceptions.md R340). -/
def faultCode : FaultTag → BitVec 2
  | .none => 0
  | .decode => 1
  | .alignment => 2
  | .range => 3

/-- The numeric run state (R320). -/
def runStateCode : RunState → BitVec 2
  | .ready => 0
  | .haltedFault => 1
  | .infiniteLoopDetected => 2

/-- The numeric selector (10_state.md R35). -/
def selectorCode : Selector → BitVec 2
  | .noForward => 0
  | .fromExMem => 1
  | .fromMemWb => 2

/-- The model `rst_model` names: 0 Pipelined, 1 General (R320). -/
def rstModelOf (general : Bool) : Model := if general then .general else .pipelined

/-- The input ports as sampled at one rising edge. The program string and the accessors' values come out of band. -/
structure Inputs where
  rst           : Bool
  rstModel      : Bool
  rstPc         : Word
  stepEn        : Bool
  optWe         : Bool
  optStalls     : Bool
  optFlushes    : Bool
  optForwarding : Bool
  progLoad      : Option (List Byte)
  hostRegWrite  : Option (RegIdx × Word)
  hostMemWrite  : Option (Word × Word)
  deriving DecidableEq, Repr

/-- Every input inactive. -/
def Inputs.idle : Inputs := ⟨false, false, 0, false, false, false, false, false, none, none, none⟩

/-- The output ports: functions of the state, stable between edges (R320). -/
structure Outputs where
  pcOut       : Word
  statusOut   : Word
  runState    : BitVec 2
  faultKind   : BitVec 2
  faultPc     : Word
  faultInfo   : Word
  retireValid : Bool
  retirePc    : Word
  snapshot    : Snapshot
  deriving DecidableEq, Repr

def outputs (s : State) : Outputs where
  pcOut       := s.pc
  statusOut   := s.status
  runState    := runStateCode s.runState
  faultKind   := faultCode s.faultRecord.kind
  faultPc     := s.faultRecord.pc
  faultInfo   := s.faultRecord.info
  retireValid := s.memwb.valid
  retirePc    := s.memwb.pc
  snapshot    := snapshot s

/-- A call that fails leaves the block as it was (R332). -/
def orUnchanged (r : CallResult State) (s : State) : State :=
  match r with
  | .ok t => t
  | .failed _ => s

/-- `opt_we`: the new toggles, from the next tick on (R325). -/
def applyOptions (p : Inputs) (s : State) : State :=
  if p.optWe then setHazardOptions p.optStalls p.optFlushes p.optForwarding s else s

def applyProgLoad (p : Inputs) (s : State) : State :=
  match p.progLoad with
  | some bytes => orUnchanged (loadProgram bytes s) s
  | none => s

def applyRegWrite (p : Inputs) (s : State) : State :=
  match p.hostRegWrite with
  | some (r, v) => writeRegister r v s
  | none => s

def applyMemWrite (p : Inputs) (s : State) : State :=
  match p.hostMemWrite with
  | some (a, v) => orUnchanged (hostWriteWord a v s) s
  | none => s

/-- One rising edge of `clk`. `rst` goes before everything; with `step_en = 1` the edge is a tick, under the toggles as
they were; loads and accessors act only with `step_en = 0` (R320; what several inputs at once do is log 14). -/
def clockPorts (p : Inputs) (s : State) : Host.Outcome State Fault Refusal :=
  if p.rst then .next (hostReset (rstModelOf p.rstModel) p.rstPc s)
  else if p.stepEn then
    (match step s with
      | .next t => .next (applyOptions p t)
      | .fault r => .fault r
      | .refused r => .refused r)
  else .next (applyMemWrite p (applyRegWrite p (applyProgLoad p (applyOptions p s))))

end Sys2Proof.Machine
end

