-- ==== Sys2Proof/Tests/Slice0.lean ====
section
/-! SUPPORT. Tests: expected values come from the spec's words, tables and worked examples (the rule or the vector is
named at each). After them, for every claim with hypotheses, a witness that meets them. -/

namespace Sys2Proof.Tests

open Sys2Proof.Machine Sys2Proof.Claims

/-! ## Helpers -/

/-- The reference right after reset, at `pc`, with some registers written. -/
def at_ (pc : Word) (regs : List (RegIdx × Word)) : State :=
  regs.foldl (fun s p => writeReg s p.1 p.2) { State.reset with pc := pc, model := .singleCycle }

def stateOf (o : Host.Outcome State Fault Refusal) : Option State :=
  match o with
  | .next t => some t
  | .fault _ => none
  | .refused _ => none

/-- Register `r` after an instruction executed alone. -/
def regAfter (i : Instr) (s : State) (r : RegIdx) : Option Word := (stateOf (exec i s)).map (fun t => readReg t r)

def pcAfter (i : Instr) (s : State) : Option Word := (stateOf (exec i s)).map (fun t => t.pc)

def faultAfter (i : Instr) (s : State) : Option (RunState × FaultRecord) :=
  (stateOf (exec i s)).map (fun t => (t.runState, t.faultRecord))

def byteAfter (i : Instr) (s : State) (a : Nat) : Option Byte :=
  (stateOf (exec i s)).map (fun t => readByte t.dmem a)

/-! ## WellFormed (30_encoding.md R85, R86): the check refuses what the encoding cannot carry -/

theorem test_wellFormed_beq_odd_offset_refused : (Instr.beq 1 2 0x003).wellFormed = false := by decide
theorem test_wellFormed_bne_odd_offset_refused : (Instr.bne 1 2 0x1FFF).wellFormed = false := by decide
theorem test_wellFormed_jal_odd_offset_refused : (Instr.jal 1 0x00001).wellFormed = false := by decide
theorem test_wellFormed_even_offsets_accepted :
    (Instr.beq 1 2 0x1002).wellFormed = true ∧ (Instr.bne 1 2 0x0FFE).wellFormed = true ∧
    (Instr.jal 1 0x1FFFFE).wellFormed = true := by decide

/-! ## Decoding: a word of each row (files 40 to 43, the rules' examples) -/

theorem test_decode_add : decode 0x006282B3#32 = .instr (.add 5 5 6) := by decide
theorem test_decode_sub : decode 0x40550533#32 = .instr (.sub 10 10 5) := by decide
theorem test_decode_sll : decode 0x002091B3#32 = .instr (.sll 3 1 2) := by decide
theorem test_decode_slt : decode 0x0020A1B3#32 = .instr (.slt 3 1 2) := by decide
theorem test_decode_sltu : decode 0x0020B1B3#32 = .instr (.sltu 3 1 2) := by decide
theorem test_decode_xor : decode 0x00554533#32 = .instr (.xor 10 10 5) := by decide
theorem test_decode_srl : decode 0x0020D1B3#32 = .instr (.srl 3 1 2) := by decide
theorem test_decode_sra : decode 0x4020D1B3#32 = .instr (.sra 3 1 2) := by decide
theorem test_decode_or : decode 0x0020E1B3#32 = .instr (.or 3 1 2) := by decide
theorem test_decode_and : decode 0x0020F1B3#32 = .instr (.and 3 1 2) := by decide
theorem test_decode_addi : decode 0xFFF30313#32 = .instr (.addi 6 6 0xFFF) := by decide
theorem test_decode_slti : decode 0xFFC0A113#32 = .instr (.slti 2 1 0xFFC) := by decide
theorem test_decode_sltiu : decode 0xFFF0B113#32 = .instr (.sltiu 2 1 0xFFF) := by decide
theorem test_decode_xori : decode 0xFFF0C113#32 = .instr (.xori 2 1 0xFFF) := by decide
theorem test_decode_ori : decode 0x00F0E113#32 = .instr (.ori 2 1 0x00F) := by decide
theorem test_decode_andi : decode 0x0FF0F113#32 = .instr (.andi 2 1 0x0FF) := by decide
theorem test_decode_slli : decode 0x00409113#32 = .instr (.slli 2 1 4) := by decide
theorem test_decode_srli : decode 0x01F0D113#32 = .instr (.srli 2 1 31) := by decide
theorem test_decode_srai : decode 0x41F55293#32 = .instr (.srai 5 10 31) := by decide
theorem test_decode_lw : decode 0x0000A183#32 = .instr (.lw 3 1 0) := by decide
theorem test_decode_sw : decode 0x0020A023#32 = .instr (.sw 2 1 0) := by decide
theorem test_decode_beq : decode 0xFE730CE3#32 = .instr (.beq 6 7 0x1FF8) := by decide
theorem test_decode_bne : decode 0xFE731CE3#32 = .instr (.bne 6 7 0x1FF8) := by decide
theorem test_decode_jal : decode 0x00C000EF#32 = .instr (.jal 1 12) := by decide
theorem test_decode_jalr : decode 0x00008067#32 = .instr (.jalr 0 1 0) := by decide

/-- R91's examples of words that are not admitted. -/
theorem test_decode_invalid_words :
    decode 0x00000000#32 = .invalid .unknownOpcode ∧ decode 0xFFFFFFFF#32 = .invalid .unknownOpcode ∧
    decode 0x00000037#32 = .invalid .unknownOpcode ∧ decode 0x0000000F#32 = .invalid .unknownOpcode ∧
    decode 0x00000073#32 = .invalid .unknownOpcode ∧ decode 0x00004063#32 = .invalid .unknownFunct3 ∧
    decode 0x00000003#32 = .invalid .unknownFunct3 ∧ decode 0x00001023#32 = .invalid .unknownFunct3 ∧
    decode 0x00001067#32 = .invalid .unknownFunct3 ∧ decode 0x02000033#32 = .invalid .unknownFunct7 ∧
    decode 0x40001033#32 = .invalid .unknownFunct7 ∧ decode 0x02001013#32 = .invalid .unknownFunct7 := by decide

/-- The first byte of memory holds bits 7:0 (R50), and the bits above `nbits` are zero. -/
theorem test_decode_bytes_little_endian :
    decodeBytes [0xB3, 0x82, 0x62, 0x00, 0x99] = some (.instr (.add 5 5 6), [0x99]) ∧
    decodeBytes [0xB3, 0x82, 0x62] = none ∧
    decodeTableWord 32 0x006282B3 = some (.add 5 5 6) ∧ decodeTableWord 32 0 = none := by decide

/-- The encoder on the same rules' examples. -/
theorem test_encode_examples :
    encode (.add 5 5 6) = 0x006282B3#32 ∧ encode (.srai 5 10 31) = 0x41F55293#32 ∧
    encode (.sw 2 1 0) = 0x0020A023#32 ∧ encode (.bne 6 7 0x1FF8) = 0xFE731CE3#32 ∧
    encode (.jal 1 12) = 0x00C000EF#32 ∧ encode (.jalr 0 1 0) = 0x00008067#32 := by decide

/-! ## Instructions executed alone: the rules' worked examples and corner cases -/

theorem test_add_example : regAfter (.add 5 5 6) (at_ 0 [(5, 36), (6, 9)]) 5 = some 45 := by decide
theorem test_add_wraps : regAfter (.add 3 1 2) (at_ 0 [(1, 0xFFFFFFFF), (2, 1)]) 3 = some 0 := by decide
theorem test_sub_example :
    regAfter (.sub 10 10 5) (at_ 0 [(10, 0xFFFFFFFA), (5, 0xFFFFFFFF)]) 10 = some 0xFFFFFFFB := by decide
theorem test_sub_no_borrow_kept : regAfter (.sub 3 0 1) (at_ 0 [(1, 0x80000000)]) 3 = some 0x80000000 := by decide
theorem test_sll_amount_modulo_32 : regAfter (.sll 3 1 2) (at_ 0 [(1, 0x80000001), (2, 33)]) 3 = some 2 := by decide
theorem test_slt_signed : regAfter (.slt 3 1 2) (at_ 0 [(1, 0x80000000), (2, 0x7FFFFFFF)]) 3 = some 1 := by decide
theorem test_sltu_unsigned : regAfter (.sltu 3 1 2) (at_ 0 [(1, 0xFFFFFFFF), (2, 1)]) 3 = some 0 := by decide
theorem test_xor_example :
    regAfter (.xor 10 10 5) (at_ 0 [(10, 0xFFFFFFFB), (5, 0xFFFFFFFF)]) 10 = some 4 := by decide
theorem test_srl_example : regAfter (.srl 3 1 2) (at_ 0 [(1, 0x80000000), (2, 31)]) 3 = some 1 := by decide
theorem test_sra_example : regAfter (.sra 3 1 2) (at_ 0 [(1, 0x80000000), (2, 31)]) 3 = some 0xFFFFFFFF := by decide
theorem test_or_example : regAfter (.or 3 1 2) (at_ 0 [(1, 0xF0F0), (2, 0x0F0F)]) 3 = some 0xFFFF := by decide
theorem test_and_example : regAfter (.and 3 1 2) (at_ 0 [(1, 0xF0F0), (2, 0x0FF0)]) 3 = some 0xF0 := by decide
theorem test_addi_example : regAfter (.addi 6 6 0xFFF) (at_ 0 [(6, 9)]) 6 = some 8 := by decide
theorem test_addi_to_x0_discarded :
    regAfter (.addi 0 6 5) (at_ 0 [(6, 9)]) 0 = some 0 ∧ pcAfter (.addi 0 6 5) (at_ 0 [(6, 9)]) = some 4 := by decide
theorem test_slti_example : regAfter (.slti 2 1 0xFFC) (at_ 0 [(1, 0xFFFFFFFB)]) 2 = some 1 := by decide
theorem test_sltiu_extends_then_unsigned : regAfter (.sltiu 2 1 0xFFF) (at_ 0 [(1, 5)]) 2 = some 1 := by decide
theorem test_xori_example : regAfter (.xori 2 1 0xFFF) (at_ 0 [(1, 0xFFFF)]) 2 = some 0xFFFF0000 := by decide
theorem test_ori_example : regAfter (.ori 2 1 0x00F) (at_ 0 [(1, 0x100)]) 2 = some 0x10F := by decide
theorem test_andi_example : regAfter (.andi 2 1 0x0FF) (at_ 0 [(1, 0x12345678)]) 2 = some 0x78 := by decide
theorem test_slli_example : regAfter (.slli 2 1 4) (at_ 0 [(1, 3)]) 2 = some 0x30 := by decide
theorem test_srli_example : regAfter (.srli 2 1 31) (at_ 0 [(1, 0x80000000)]) 2 = some 1 := by decide
theorem test_srai_example : regAfter (.srai 5 10 31) (at_ 0 [(10, 0xFFFFFFFB)]) 5 = some 0xFFFFFFFF := by decide

/-- R160's example: the word 0x7B at 0x40. -/
theorem test_lw_example :
    regAfter (.lw 3 1 0) (storeWord (at_ 0 [(1, 0x40)]) 0x40 0x7B) 3 = some 0x7B := by decide
/-- R160 with `x1 = 2`, and the load to x0, which checks too. -/
theorem test_lw_unaligned :
    faultAfter (.lw 3 1 0) (at_ 0x20 [(1, 2)]) = some (.haltedFault, ⟨.alignment, 0x20, 2⟩) ∧
    faultAfter (.lw 0 1 0) (at_ 0x20 [(1, 2)]) = some (.haltedFault, ⟨.alignment, 0x20, 2⟩) := by decide
/-- R161's example: bytes `7B 00 00 00`; and the bytes of a word in order. -/
theorem test_sw_example :
    byteAfter (.sw 2 1 0) (at_ 0 [(1, 0x40), (2, 0x7B)]) 0x40 = some 0x7B ∧
    byteAfter (.sw 2 1 0) (at_ 0 [(1, 0x40), (2, 0x12345678)]) 0x43 = some 0x12 := by decide
/-- R160's corner case, for the store: `x1 = 0` and -4 give 0xFFFFFFFC, aligned and out of range. -/
theorem test_sw_wraps_then_range :
    faultAfter (.sw 2 0 0xFFC) (at_ 8 []) = some (.haltedFault, ⟨.range, 8, 0xFFFFFFFC⟩) := by decide
/-- R170's example at `pc = 0x14`. -/
theorem test_beq_example :
    pcAfter (.beq 6 7 0x1FF8) (at_ 0x14 []) = some 0x0C ∧
    pcAfter (.beq 6 7 0x1FF8) (at_ 0x14 [(6, 1)]) = some 0x18 := by decide
/-- R171's example. -/
theorem test_bne_example :
    pcAfter (.bne 6 7 0x1FF8) (at_ 0x14 [(6, 8)]) = some 0x0C ∧
    pcAfter (.bne 6 7 0x1FF8) (at_ 0x14 []) = some 0x18 := by decide
/-- R172's example at `pc = 0x04`. -/
theorem test_jal_example :
    pcAfter (.jal 1 12) (at_ 4 []) = some 0x10 ∧ regAfter (.jal 1 12) (at_ 4 []) 1 = some 8 := by decide
/-- R173's example at `pc = 0x1C`, and the old base when `rd = rs1`. -/
theorem test_jalr_example :
    pcAfter (.jalr 0 1 0) (at_ 0x1C [(1, 9)]) = some 8 ∧ pcAfter (.jalr 0 1 0) (at_ 0x1C [(1, 10)]) = some 10 := by
  decide
theorem test_jalr_old_base :
    pcAfter (.jalr 1 1 0) (at_ 0x1C [(1, 8)]) = some 8 ∧
    regAfter (.jalr 1 1 0) (at_ 0x1C [(1, 8)]) 1 = some 0x20 := by decide

/-! ## One step -/

/-- The first instruction after reset, `addi x6,x0,9` (R140). -/
theorem test_withFetchWord_runs :
    (stateOf (step (State.reset.withFetchWord 32 0x00900313))).map (fun t => (readReg t 6, t.pc)) =
      some (9, 4) := by decide
/-- The zero word is a DecodeFault (R341). -/
theorem test_withFetchWord_zero_word_faults :
    (stateOf (step (State.reset.withFetchWord 32 0))).map (fun t => (t.runState, t.faultRecord)) =
      some (.haltedFault, ⟨.decode, 0, 0⟩) := by decide

/-! ## The worked examples of 48_timed_datapath.md -/

/-- Program P2 at tick 5 (R305). -/
def p2Tick5 : State :=
  { State.reset with
    pc := 0x10
    imem := writeWord [] 0x10 0x00118213
    ifid := { IFID.zero with valid := true, pc := 0x0C, pcPlus4 := 0x10, instr := 0x0000A183 }
    idex := { IDEX.zero with
      valid := true, pc := 8, pcPlus4 := 0x0C, cw := 0x0026, rs1Idx := 1, rs2Idx := 2 }
    exmem := { EXMEM.zero with valid := true, pc := 4, pcPlus4 := 8, cw := 0x0005, rd := 2, aluResult := 0x7B }
    memwb := { MEMWB.zero with valid := true, pcPlus4 := 4, cw := 0x0005, rd := 1, aluResult := 0x40 } }

theorem test_r305_execute_signals :
    sigSrcA p2Tick5 = ⟨0x40, 3, true⟩ ∧ sigWriteData p2Tick5 = ⟨0x7B, 3, true⟩ ∧ sigSrcB p2Tick5 = ⟨0, 1, true⟩ ∧
    sigAluResult p2Tick5 = ⟨0x40, 4, true⟩ ∧ (sigAluZero p2Tick5).isActive = false ∧
    sigFlush p2Tick5 = ⟨false, 1, true⟩ ∧ sigControlForwardA p2Tick5 = ⟨.fromMemWb, 1, true⟩ ∧
    sigControlForwardM p2Tick5 = ⟨.fromExMem, 1, true⟩ := by decide
theorem test_r305_decode_and_fetch_signals :
    sigRD1 p2Tick5 = ⟨0x40, 2, true⟩ ∧ (sigRD2 p2Tick5).isActive = false ∧
    sigControlWord p2Tick5 = ⟨0x000D, 1, true⟩ ∧ sigImmExt p2Tick5 = ⟨0, 2, true⟩ ∧
    sigInstr p2Tick5 = ⟨0x00118213, 1, true⟩ ∧ sigPcNext p2Tick5 = ⟨0x14, 2, true⟩ ∧
    sigResult p2Tick5 = ⟨0x40, 1, true⟩ := by decide
theorem test_r305_critical_path : criticalPathTime p2Tick5 = 4 := by decide

/-- Program P1 at tick 8 (R306). -/
def p1Tick8 : State :=
  { State.reset with
    pc := 0x1C
    ifid := { IFID.zero with valid := true, pc := 0x18, pcPlus4 := 0x1C, instr := 0x0000006F }
    idex := { IDEX.zero with
      valid := true, pc := 0x14, pcPlus4 := 0x18, cw := 0x0540, rs1Idx := 6, rs2Idx := 7, imm := 0xFFFFFFF8
      opA := 9 }
    exmem := { EXMEM.zero with valid := true, pc := 0x10, pcPlus4 := 0x14, cw := 0x0005, rd := 6, aluResult := 8 }
    memwb := { MEMWB.zero with
      valid := true, pc := 0x0C, pcPlus4 := 0x10, cw := 0x0001, rd := 5, aluResult := 9 } }

theorem test_r306_signals :
    sigSrcA p1Tick8 = ⟨8, 3, true⟩ ∧ sigRegB p1Tick8 = ⟨0, 2, true⟩ ∧ sigAluZero p1Tick8 = ⟨false, 5, true⟩ ∧
    sigPcTarget p1Tick8 = ⟨0x0C, 2, true⟩ ∧ sigBranchTaken p1Tick8 = ⟨true, 6, true⟩ ∧
    sigFlush p1Tick8 = ⟨true, 7, true⟩ ∧ sigPcNext p1Tick8 = ⟨0x0C, 7, true⟩ ∧
    sigControlWord p1Tick8 = ⟨0x01F1, 1, true⟩ := by decide
theorem test_r306_critical_path : criticalPathTime p1Tick8 = 7 := by decide

/-- R301's longest path: a branch whose second operand comes from MEM/WB. -/
def longestPath : State :=
  { State.reset with
    idex := { IDEX.zero with valid := true, pcPlus4 := 4, cw := 0x04C0, rs2Idx := 7 }
    memwb := { MEMWB.zero with valid := true, pcPlus4 := 4, cw := 0x0001, rd := 7, aluResult := 9 } }

theorem test_r301_longest_path : criticalPathTime longestPath = 8 := by decide

/-! ## One tick -/

/-- The tick of R306 flushes: pc takes the target, both younger slots become bubbles (R268). -/
theorem test_flush_tick :
    (stateOf (step p1Tick8)).map (fun t => (t.pc, t.ifid.valid, t.idex.valid, t.flushCount, readReg t 5)) =
      some (0x0C, false, false, 1, 9) := by decide

/-- `lw x3,0(x1)` in EX and `add x4,x3,x3` in ID (program H3): the load-use stall. -/
def loadUse : State :=
  { State.reset with
    pc := 8
    ifid := { IFID.zero with valid := true, pc := 4, pcPlus4 := 8, instr := 0x00318233 }
    idex := { IDEX.zero with valid := true, pcPlus4 := 4, cw := 0x000D, rs1Idx := 1, rd := 3, opA := 0x40 } }

theorem test_load_use_stall_tick :
    (stateOf (step loadUse)).map (fun t => (t.pc, t.ifid.instr, t.idex.valid, t.stallCount, t.exmem.aluResult)) =
      some (8, 0x00318233, false, 1, 0x40) := by decide

/-- A fault in WB halts and changes nothing else, the store in MEM included (R222). -/
def faultInWb : State :=
  { State.reset with
    exmem := { EXMEM.zero with valid := true, pc := 8, pcPlus4 := 12, cw := 0x0026, storeData := 7 }
    memwb := { MEMWB.zero with valid := true, pc := 4, pcPlus4 := 8, fault := .decode, faultInfo := 0xFFFFFFFF } }

theorem test_halt_tick :
    (stateOf (step faultInWb)).map (fun t => (t.runState, t.faultRecord, t.dmem, t.cycleCount)) =
      some (.haltedFault, ⟨.decode, 4, 0xFFFFFFFF⟩, [], 0) := by decide

/-- R269: `jal x1` in EX, its link read by the wrong-path `add x4,x1,x1` in ID, forwarding off. -/
def linkStall : State :=
  { State.reset with
    forwardingEn := false
    pc := 8
    ifid := { IFID.zero with valid := true, pc := 4, pcPlus4 := 8, instr := 0x00108233 }
    idex := { IDEX.zero with valid := true, pcPlus4 := 4, cw := 0x01F1, rd := 1, imm := 12 } }

theorem test_flush_wins_over_stall :
    stall linkStall = true ∧
    (stateOf (step linkStall)).map (fun t => (t.pc, t.ifid.valid, t.idex.valid, t.stallCount, t.flushCount)) =
      some (12, false, false, 0, 1) := by decide

/-! ## The host -/

theorem test_load_program_partial_word :
    (match loadProgram [0x13, 0x05] State.reset with
      | .ok t => some (fetchWord t 0)
      | .failed _ => none) = some 0x00000513 := by decide

/-- `loop: addi x6,x6,-1; bne x6,x7,loop; j end`, with `end` after it (R95 to R97): the branch offset is -4. -/
def loopText : List AsmLine :=
  [⟨["loop"], some (.regImm .ADDI 6 6 (-1))⟩, ⟨[], some (.branch .BNE 6 7 "loop")⟩, ⟨["end"], some (.j "end")⟩]

theorem test_assemble_loop :
    assemble loopText = .ok [0x13, 0x03, 0xF3, 0xFF, 0xE3, 0x1E, 0x73, 0xFE, 0x6F, 0x00, 0x00, 0x00] := by decide
theorem test_assemble_unknown_label : assemble [⟨[], some (.j "nowhere")⟩] = .syntaxError 0 := by decide

/-- Toggles mean nothing to the other models: no change, and the caller is told so (R325, R353). -/
theorem test_hazard_options_reported :
    setHazardOptionsCall false true false { State.reset with model := .pipelined } =
      ({ State.reset with model := .pipelined }, .invalidModelTransition) ∧
    (setHazardOptionsCall false true false State.reset).2 = .optionsSet := ⟨rfl, rfl⟩

/-- Nothing to undo after a reset with no step made, or where the bound keeps no entry (R329); a reset after a step is
the one that is not crossed (93 U3). -/
theorem test_step_back_after_reset :
    stepBack (sessionReset .general 0 (newSession none State.reset)) = .nothingToUndo ∧
    (match sessionStep (newSession (some 0) State.reset) with
      | .next y => stepBack (sessionReset .general 0 y) = .nothingToUndo
      | _ => False) ∧
    (match sessionStep (newSession none State.reset) with
      | .next y => stepBack (sessionReset .general 0 y) = .acrossReset
      | _ => False) :=
  ⟨rfl, rfl, rfl⟩

/-- `rst` has priority over `step_en` (R320). -/
theorem test_ports_reset_first :
    (stateOf (clockPorts { Inputs.idle with rst := true, rstPc := 0x20, stepEn := true } p1Tick8)).map
      (fun t => (t.pc, t.cycleCount, t.model)) = some (0x20, 0, .pipelined) := by decide

/-! ## Witnesses: every claim's hypotheses are met -/

theorem witness_DecodeOfEncodeIsIdentity :
    (Instr.beq 6 7 0x1FF8).wellFormed = true ∧ (Instr.jal 1 0x1FFFFE).wellFormed = true ∧
    (Instr.sw 2 1 0x800).wellFormed = true := by decide

theorem witness_EncodeOfDecodeIsIdentity : decode 0xFE730CE3#32 = .instr (.beq 6 7 0x1FF8) := by decide

theorem witness_DecoderFollowsOpcodeTable :
    (⟨.SUB, 0xFE00707F, 0x40000033⟩ ∈ opcodeTable ∧ 0x40550533#32 &&& 0xFE00707F = 0x40000033) ∧
    (∀ row ∈ opcodeTable, 0x00000000#32 &&& row.mask ≠ row.pattern) := by decide

/-- The reference with ECALL at pc. -/
def ecallState : State := { State.reset with model := .singleCycle, imem := writeWord [] 0 0x00000073 }

theorem witness_WordsOutsideTheSubsetAreInvalid :
    (0x00000001#32).extractLsb' 0 2 ≠ 0b11#2 ∧
    (0x00000073#32).extractLsb' 0 7 ∈ [0b0110111#7, 0b0010111#7, 0b0001111#7, 0b1110011#7] ∧
    ecallState.model = .singleCycle ∧ ecallState.runState = .ready ∧ fetchable ecallState ∧
    fetchWord ecallState ecallState.pc = 0x00000073 := by
  refine ⟨by decide, by decide, rfl, rfl, ⟨by decide, by decide⟩, by decide⟩

theorem witness_register_encodings :
    0x006282B3#32 &&& 0xFE00707F = 0x00000033 ∧ 0x40550533#32 &&& 0xFE00707F = 0x40000033 ∧
    0x002091B3#32 &&& 0xFE00707F = 0x00001033 ∧ 0x0020D1B3#32 &&& 0xFE00707F = 0x00005033 ∧
    0x4020D1B3#32 &&& 0xFE00707F = 0x40005033 ∧ 0x0020A1B3#32 &&& 0xFE00707F = 0x00002033 ∧
    0x0020B1B3#32 &&& 0xFE00707F = 0x00003033 ∧ 0x00554533#32 &&& 0xFE00707F = 0x00004033 ∧
    0x0020E1B3#32 &&& 0xFE00707F = 0x00006033 ∧ 0x0020F1B3#32 &&& 0xFE00707F = 0x00007033 := by decide

theorem witness_immediate_encodings :
    0xFFF30313#32 &&& 0x0000707F = 0x00000013 ∧ 0xFFC0A113#32 &&& 0x0000707F = 0x00002013 ∧
    0xFFF0B113#32 &&& 0x0000707F = 0x00003013 ∧ 0xFFF0C113#32 &&& 0x0000707F = 0x00004013 ∧
    0x00F0E113#32 &&& 0x0000707F = 0x00006013 ∧ 0x0FF0F113#32 &&& 0x0000707F = 0x00007013 ∧
    0x00409113#32 &&& 0xFE00707F = 0x00001013 ∧ 0x01F0D113#32 &&& 0xFE00707F = 0x00005013 ∧
    0x41F55293#32 &&& 0xFE00707F = 0x40005013 := by decide

theorem witness_ShiftImmediate_invalid_word :
    fieldOpcode 0x02409113#32 = 0x13#7 ∧ fieldFunct3 0x02409113#32 = 0b001#3 ∧
    (0x02409113#32).extractLsb' 25 7 ≠ 0#7 ∧
    (immI 0x41F55293#32).toNat = 0x41F := by decide

theorem witness_memory_and_transfer_encodings :
    0x0000A183#32 &&& 0x0000707F = 0x00002003 ∧ 0x0020A023#32 &&& 0x0000707F = 0x00002023 ∧
    0xFE730CE3#32 &&& 0x0000707F = 0x00000063 ∧ 0xFE731CE3#32 &&& 0x0000707F = 0x00001063 ∧
    0x00C000EF#32 &&& 0x0000007F = 0x0000006F ∧ 0x00008067#32 &&& 0x0000707F = 0x00000067 := by decide

/-- The last word, the first address past it, an unaligned address at the edge: one clause each. -/
theorem witness_LoadWordCompletesOrFaults :
    ((effectiveAddress (at_ 0 [(1, 0x400)]) 1 0xFFC).toNat % 4 = 0 ∧
      (effectiveAddress (at_ 0 [(1, 0x400)]) 1 0xFFC).toNat + 3 < (at_ 0 [(1, 0x400)]).memSize) ∧
    (effectiveAddress (at_ 0 [(1, 0x3FD)]) 1 0).toNat % 4 ≠ 0 ∧
    ((effectiveAddress (at_ 0 [(1, 0x400)]) 1 0).toNat % 4 = 0 ∧
      (at_ 0 [(1, 0x400)]).memSize ≤ (effectiveAddress (at_ 0 [(1, 0x400)]) 1 0).toNat + 3) := by decide

theorem witness_StoreWordCompletesOrFaults :
    ((effectiveAddress (at_ 0 [(1, 0x400)]) 1 0xFFC).toNat % 4 = 0 ∧
      (effectiveAddress (at_ 0 [(1, 0x400)]) 1 0xFFC).toNat + 3 < (at_ 0 [(1, 0x400)]).memSize ∧
      (at_ 0 [(1, 0x400)]).dmem.wf = true) ∧
    (effectiveAddress (at_ 0 [(1, 0x401)]) 1 0).toNat % 4 ≠ 0 ∧
    ((effectiveAddress (at_ 0 []) 0 0xFFC).toNat % 4 = 0 ∧
      (at_ 0 []).memSize ≤ (effectiveAddress (at_ 0 []) 0 0xFFC).toNat + 3) := by decide

/-- `addi x6,x0,9` at pc 0 of the reference. -/
def addiState : State := { State.reset with model := .singleCycle, imem := writeWord [] 0 0x00900313 }

theorem witness_ReferenceStepRunsDecodedInstruction :
    addiState.model = .singleCycle ∧ addiState.runState ≠ .haltedFault ∧ fetchable addiState ∧
    decodeBytes [readByte addiState.imem addiState.pc.toNat, readByte addiState.imem (addiState.pc.toNat + 1),
      readByte addiState.imem (addiState.pc.toNat + 2), readByte addiState.imem (addiState.pc.toNat + 3)] =
      some (.instr (.addi 6 0 9), []) := by
  refine ⟨rfl, by decide, ⟨by decide, by decide⟩, by decide⟩

theorem witness_ReferenceStepTakesFetchFaults :
    ((at_ 0x401 []).model = .singleCycle ∧ (at_ 0x401 []).runState = .ready) ∧
    (at_ 0x401 []).pc.toNat % 4 ≠ 0 ∧
    ((at_ 0x400 []).pc.toNat % 4 = 0 ∧ (at_ 0x400 []).memSize ≤ (at_ 0x400 []).pc.toNat + 3) ∧
    (fetchable (at_ 0x3FC []) ∧ ∃ why, decode (fetchWord (at_ 0x3FC []) (at_ 0x3FC []).pc) = .invalid why) := by
  refine ⟨⟨rfl, rfl⟩, by decide, ⟨by decide, by decide⟩, ⟨by decide, by decide⟩, .unknownOpcode, by decide⟩

/-- An empty pipeline in front of `jal x1,12`. -/
def jalState : State := { State.reset with imem := writeWord [] 0 0x00C000EF }

theorem witness_PipelineRunsFetchedInstruction :
    startsClean jalState ∧ fetchable jalState ∧ decode (fetchWord jalState jalState.pc) = .instr (.jal 1 12) ∧
    (stateOf (exec (.jal 1 12) jalState)).map (fun u => (u.runState, decide (u.pc ≠ jalState.pc + 4))) =
      some (.ready, true) := by
  refine ⟨⟨⟨by decide, by decide⟩, ⟨rfl, rfl, rfl, rfl⟩, rfl⟩, ⟨by decide, by decide⟩, by decide, by decide⟩

/-- An empty pipeline at `pc`. -/
def cleanAt (pc : Word) : State := { State.reset with pc := pc }

theorem cleanAt_startsClean (pc : Word) : startsClean (cleanAt pc) :=
  ⟨⟨show Model.general ≠ Model.singleCycle by decide, show layoutAdmissible CwLayout.default = true by decide⟩,
    ⟨rfl, rfl, rfl, rfl⟩, rfl⟩

theorem witness_PipelineTakesFetchAndDecodeFaults :
    startsClean (cleanAt 0x401) ∧ (cleanAt 0x401).pc.toNat % 4 ≠ 0 ∧
    startsClean (cleanAt 0x400) ∧ (cleanAt 0x400).pc.toNat % 4 = 0 ∧
      (cleanAt 0x400).memSize ≤ (cleanAt 0x400).pc.toNat + 3 ∧
    startsClean (cleanAt 0x3FC) ∧ fetchable (cleanAt 0x3FC) ∧
      (∃ why, decode (fetchWord (cleanAt 0x3FC) (cleanAt 0x3FC).pc) = .invalid why) :=
  ⟨cleanAt_startsClean _, by decide, cleanAt_startsClean _, by decide, by decide, cleanAt_startsClean _,
    ⟨by decide, by decide⟩, .unknownOpcode, by decide⟩

theorem witness_HaltedTickChangesNothing :
    (ticking { State.reset with runState := .haltedFault, faultRecord := ⟨.range, 4, 0x400⟩ }) ∧
    ticking State.reset ∧ State.reset.runState ≠ .haltedFault :=
  ⟨⟨by decide, by decide⟩, ⟨by decide, by decide⟩, by decide⟩

theorem witness_HaltTickTakesTheFault :
    ticking faultInWb ∧ faultInWb.runState ≠ .haltedFault ∧ faultInWb.memwb.valid = true ∧
    faultInWb.memwb.fault ≠ .none :=
  ⟨⟨by decide, by decide⟩, by decide, rfl, by decide⟩

/-- The premise of TickCommitsOneRegisterAndOneWord, PipelineRegistersLatch and CountersAtTheEdge, with a register
written and, in the second state, a store in MEM. -/
theorem witness_committing_ticks :
    committing p2Tick5 ∧ p2Tick5.dmem.wf = true ∧ committing p1Tick8 ∧
    committing { faultInWb with memwb := MEMWB.zero } :=
  ⟨⟨⟨by decide, by decide⟩, by decide, by decide⟩, by decide, ⟨⟨by decide, by decide⟩, by decide, by decide⟩,
    ⟨⟨by decide, by decide⟩, by decide, by decide⟩⟩

theorem witness_ProgramAndConfigurationKept :
    (∃ t, step State.reset = .next t) ∧ (∃ t, hostWriteWord 0x3FC 7 State.reset = .ok t) ∧
    (∃ y, stepBack ⟨State.reset, [.entry (entryOf State.reset)], none⟩ = .restored y) ∧
    (∃ t, loadProgram [1, 2, 3, 4] State.reset = .ok t) :=
  ⟨⟨_, rfl⟩, ⟨_, rfl⟩, ⟨_, rfl⟩, ⟨_, rfl⟩⟩

theorem witness_RegisterReadSeesWriteBack :
    committing p2Tick5 ∧ stall p2Tick5 = false ∧ flush p2Tick5 = false :=
  ⟨⟨⟨by decide, by decide⟩, by decide, by decide⟩, by decide, by decide⟩

theorem witness_StallExactlyOnUnmetDependency :
    (loadUse.ifid.valid = true ∧ loadUse.ifid.fault = .none ∧
      decode loadUse.ifid.instr = .instr (.add 4 3 3) ∧ effForwarding loadUse = true) ∧
    (linkStall.ifid.valid = true ∧ linkStall.ifid.fault = .none ∧
      decode linkStall.ifid.instr = .instr (.add 4 1 1) ∧ effForwarding linkStall = false) ∧
    State.reset.ifid.valid = false ∧ decode 0xFFFFFFFF#32 = .invalid .unknownOpcode := by decide

theorem linkStall_inv : linkStall.Inv where
  zero := by decide
  memories := by decide
  layoutOk := by decide
  sizeOk := by decide
  ifidOk := ⟨by decide, by decide, by decide, by decide, by decide⟩
  idexOk := ⟨by decide, by decide, by decide, by decide, .inr ⟨.jal 1 12, by decide⟩⟩
  exmemOk := ⟨by decide, by decide, by decide, by decide, .inl rfl⟩
  memwbOk := ⟨by decide, by decide, by decide, by decide, .inl rfl⟩
  together := by unfold bubblesTogether; decide
  recordOk := ⟨by decide, by decide⟩

theorem witness_StalledTransferNeedsForwardingOff :
    linkStall.Inv ∧ stall linkStall = true ∧ branchTaken linkStall = true :=
  ⟨linkStall_inv, by decide, by decide⟩

theorem witness_ForwardingTakesTheYoungestProducer :
    layoutAdmissible p2Tick5.layout = true ∧ effForwarding p2Tick5 = true ∧ inExecute p2Tick5 (.sw 2 1 0) ∧
    isJal (.sw 2 1 0) = false ∧ isStore (.sw 2 1 0) = true ∧
    inExecute p1Tick8 (.bne 6 7 0x1FF8) ∧ (Instr.bne 6 7 0x1FF8).format = .b ∧ effForwarding p1Tick8 = true ∧
    inExecute { linkStall with forwardingEn := true } (.jal 1 12) ∧ isJal (.jal 1 12) = true ∧
    effForwarding { linkStall with forwardingEn := true } = true :=
  ⟨by decide, by decide, ⟨rfl, rfl, by decide⟩, rfl, rfl, ⟨rfl, rfl, by decide⟩, rfl, by decide,
    ⟨rfl, rfl, by decide⟩, rfl, by decide⟩

theorem witness_ZeroRegisterIsNoDependency :
    State.reset.idex.rd = 0#5 ∧ State.reset.exmem.rd = 0#5 ∧ State.reset.ifid.instr.extractLsb' 15 5 = 0#5 ∧
    State.reset.ifid.instr.extractLsb' 20 5 = 0#5 ∧ State.reset.idex.rs1Idx = 0#5 ∧
    State.reset.idex.rs2Idx = 0#5 := by decide

/-- The teaching mode: all three options off. -/
def teaching : State := { p1Tick8 with stallsEn := false, flushesEn := false, forwardingEn := false }

theorem witness_DisabledOptionsLeaveTheBusNeutral :
    effForwarding teaching = false ∧ teaching.model = .general ∧ teaching.stallsEn = false ∧
    teaching.flushesEn = false ∧ teaching.forwardingEn = false ∧ committing teaching :=
  ⟨by decide, rfl, rfl, rfl, rfl, ⟨by decide, by decide⟩, by decide, by decide⟩

/-- `addi x3,x0,5` in EX in front of `sw x3,0(x3)` in ID, and of `add x4,x3,x3`. -/
def producerThen (w : Word) : State :=
  { State.reset with
    ifid := { IFID.zero with valid := true, pc := 4, pcPlus4 := 8, instr := w }
    idex := { IDEX.zero with valid := true, pcPlus4 := 4, cw := 0x0005, rd := 3, imm := 5 } }

theorem witness_LoadAddressNeverForwardedUnderStalls :
    effStalls (producerThen 0x0031A023) = true ∧
    (stateOf (step (producerThen 0x0031A023))).map (fun t => (controlForwardA t, controlForwardM t)) =
      some (.fromExMem, .fromExMem) ∧
    (stateOf (step (producerThen 0x00318233))).map controlForwardB = some .fromExMem ∧
    (controlForwardA { p1Tick8 with exmem := { p1Tick8.exmem with cw := 0x000D } } = .fromExMem ∧
      controlForwardB { p1Tick8 with exmem := { p1Tick8.exmem with cw := 0x000D, rd := 7 } } = .fromExMem ∧
      controlForwardM { p2Tick5 with exmem := { p2Tick5.exmem with cw := 0x000D } } = .fromExMem ∧
      fieldOf 0x000D CwLayout.default.resSrc = 1) := by decide

theorem witness_LoadAddressNeverForwarded_committing : committing (producerThen 0x0031A023) :=
  ⟨⟨by decide, by decide⟩, by decide, by decide⟩

/-- A layout with other positions and wider fields. -/
def otherLayout : CwLayout where
  aluCtr := ⟨20, 5⟩
  resSrc := ⟨3, 2⟩
  immSrc := ⟨30, 3⟩
  pcSrc  := ⟨0, 3⟩
  aluSrc := ⟨7, 2⟩
  brWr   := ⟨12, 1⟩
  memWr  := ⟨14, 2⟩

theorem witness_ControlWordRoundTrip :
    layoutAdmissible CwLayout.default = true ∧ layoutAdmissible otherLayout = true ∧
    layoutAdmissible { otherLayout with memWr := ⟨12, 1⟩ } = false := by decide

/-- `linkStall` with its control word packed by the other layout. -/
def linkStallOther : State :=
  { linkStall with layout := otherLayout, idex := { linkStall.idex with cw := pack otherLayout (decodeControl (.jal 1 12)) } }

theorem witness_BehaviourIndependentOfLayout : sameButLayout linkStall linkStallOther ∧ ticking linkStall :=
  ⟨⟨by decide, by decide, rfl, by decide, by decide, by decide⟩, by decide, by decide⟩

theorem witness_InvariantKeptByEveryStep : linkStall.Inv ∧ ∃ t, step linkStall = .next t := ⟨linkStall_inv, _, rfl⟩

theorem witness_TicksAreAccountedFor :
    bubblesTogether { linkStall with cycleCount := 2 } ∧ ticksAccounted { linkStall with cycleCount := 2 } ∧
    ∃ t, step { linkStall with cycleCount := 2 } = .next t :=
  ⟨by unfold bubblesTogether; decide, by unfold ticksAccounted; decide, _, rfl⟩

theorem witness_PipelineMatchesSequentialExecution :
    startsClean State.reset ∧ fullyEnabled State.reset = true ∧ (ticks 5 State.reset).runState = .haltedFault ∧
    (sequential 1 State.reset).runState = .haltedFault :=
  ⟨cleanAt_startsClean 0, by decide, by decide, by decide⟩

theorem witness_StallingPipelineMatchesSequentialExecution :
    startsClean { State.reset with forwardingEn := false } ∧
    effStalls { State.reset with forwardingEn := false } = true ∧
    effFlushes { State.reset with forwardingEn := false } = true ∧
    effForwarding { State.reset with forwardingEn := false } = false :=
  ⟨⟨⟨by decide, by decide⟩, ⟨rfl, rfl, rfl, rfl⟩, rfl⟩, by decide, by decide, by decide⟩

theorem witness_RetiresAtLeastEveryThirdTick : startsClean jalState :=
  ⟨⟨by decide, by decide⟩, ⟨rfl, rfl, rfl, rfl⟩, rfl⟩

theorem witness_RegisterFileWriteThenRead : (5#5 ≠ 0#5) ∧ (6#5 ≠ 5#5) := by decide

theorem witness_LoadProgramReplacesInstructionMemory :
    ([1, 2, 3] : List Byte).length ≤ State.reset.memSize ∧
    (State.fresh 4 .general CwLayout.default Delay.default).memSize < ([1, 2, 3, 4, 5] : List Byte).length := by decide

theorem witness_HazardOptionsOnlyInGeneral :
    State.reset.model = .general ∧ { State.reset with model := .pipelined }.model ≠ .general := by decide

theorem witness_HostWordAccess :
    State.reset.dmem.wf = true ∧ ((0x3FC#32).toNat % 4 = 0 ∧ (0x3FC#32).toNat + 3 < State.reset.memSize) ∧
    (0x401#32).toNat % 4 ≠ 0 ∧ ((0x400#32).toNat % 4 = 0 ∧ State.reset.memSize ≤ (0x400#32).toNat + 3) := by decide

theorem witness_StepBackRestoresTheBlock :
    (newSession (some 1) State.reset).bound ≠ some 0 ∧ (∃ y, sessionStep (newSession (some 1) State.reset) = .next y) ∧
    (newSession none State.reset).history = [] :=
  ⟨by decide, ⟨_, rfl⟩, rfl⟩

/-- The reference in front of `jal x0,0`, which parks it. -/
def selfJumpState : State := { State.reset with model := .singleCycle, imem := writeWord [] 0 selfJump }

/-- Two fields on one position, a table construction refuses. -/
def noLayout : State := { State.reset with layout := { otherLayout with memWr := ⟨12, 1⟩ } }

theorem witness_StepsUntilResultsAreTrue :
    (searchUntil 2 [4] [loopKey State.reset] (newSession none State.reset)).2 = .hitBreakpoint ∧
    (searchUntil 2 [] [loopKey faultInWb] (newSession none faultInWb)).2 = .fault ∧
    (searchUntil 2 [] [loopKey selfJumpState] (newSession none selfJumpState)).2 = .loopDetected ∧
    (searchUntil 1 [] [loopKey addiState] (newSession none addiState)).2 = .stepCapReached ∧
    (searchUntil 2 [] [loopKey noLayout] (newSession none noLayout)).2 = .refused := by
  refine ⟨by decide, by decide, by decide, by decide, by decide⟩

theorem witness_AssembledBytesAreEncodedInstructions :
    (∃ bytes, assemble loopText = .ok bytes) ∧
    (loopText.filterMap AsmLine.op)[1]? = some (.branch .BNE 6 7 "loop") ∧
    labelOffset loopText 0 "loop" = some 0 ∧ labelOffset loopText 0 "end" = some 8 :=
  ⟨⟨_, test_assemble_loop⟩, rfl, by decide, by decide⟩

theorem witness_NothingDependsOnStatus :
    sameButStatus p2Tick5 { p2Tick5 with status := 7, statusDraws := 3 } ∧ ∃ t, step p2Tick5 = .next t :=
  ⟨rfl, _, rfl⟩

/-- Every component slower by one. -/
def slower : Delay := ⟨2, 2, 2, 2, 2, 2, 2, 2, 2, 2, 2, 2⟩

theorem witness_StepIndependentOfDelay :
    sameButDelay p2Tick5 { p2Tick5 with delay := slower } ∧ ∃ t, step p2Tick5 = .next t :=
  ⟨rfl, _, rfl⟩

theorem witness_CriticalPathAtMostEight : longestPath.delay = Delay.default := rfl

theorem witness_ReadinessIsMonotoneInDelays : delaysLe p2Tick5.delay slower := by unfold delaysLe; decide

/-- `jalr x0,0(x1)` in EX. -/
def jalrInExecute : State :=
  { State.reset with idex := { IDEX.zero with valid := true, pcPlus4 := 4, cw := 0x0215, rs1Idx := 1 } }

/-- The slot in WB writes `x2`, which ID reads as `rs2` (`add x3,x0,x2`) and the SW in EX stores. -/
def secondOperand : State :=
  { p2Tick5 with
    ifid := { p2Tick5.ifid with instr := 0x002001B3 }
    exmem := EXMEM.zero
    memwb := { p2Tick5.memwb with rd := 2 } }

theorem witness_ReadinessRespectsDependencies :
    (wbEn secondOperand = true ∧ secondOperand.memwb.rd = fieldRs2 secondOperand.ifid.instr ∧
      (sigRD2 secondOperand).isActive = true ∧ controlForwardM secondOperand = .fromMemWb) ∧
    (wbEn p2Tick5 = true ∧ p2Tick5.memwb.rd = fieldRs1 p2Tick5.ifid.instr ∧ (sigRD1 p2Tick5).isActive = true ∧
      (sigResult p2Tick5).isActive = true) ∧
    (controlForwardA p2Tick5 = .fromMemWb ∧ (sigForwardA p2Tick5).isActive = true) ∧
    controlForwardB longestPath = .fromMemWb ∧
    ((exCtl p1Tick8).pcSrc ≠ 4 ∧ (sigPcTarget p1Tick8).isActive = true ∧ (sigPcBranch p1Tick8).isActive = true) ∧
    ((exCtl jalrInExecute).pcSrc = 4 ∧ (sigPcTarget jalrInExecute).isActive = true ∧
      (sigAluResult jalrInExecute).isActive = true) := by decide

theorem witness_ExecuteSignalsActiveByInstruction :
    layoutAdmissible p1Tick8.layout = true ∧ inExecute p1Tick8 (.bne 6 7 0x1FF8) ∧
    effForwarding p1Tick8 = true ∧ inExecute p2Tick5 (.sw 2 1 0) ∧ effForwarding p2Tick5 = true ∧
    State.reset.idex.valid = false ∧ { IDEX.zero with fault := .decode }.fault ≠ .none :=
  ⟨by decide, ⟨rfl, rfl, by decide⟩, by decide, ⟨rfl, rfl, by decide⟩, by decide, rfl, by decide⟩

end Sys2Proof.Tests
end

section
/-! Proofs for 00_scope.md: a step of the SingleCycle reference (R5, R11; log 4) in front of a legal fetch. -/

namespace Sys2Proof.Machine

/-- A legal fetch address is one that the fetch checks accept (20_memory.md R54 to R56). -/
theorem fetchable_iff_accessFault_none (s : State) :
    Claims.fetchable s ↔ accessFault s.memSize s.pc = .none :=
  (accessFault_none_iff s.memSize s.pc).symm

theorem step_of_singleCycle {s : State} (h : s.model = .singleCycle) : step s = referenceStep s := by
  simp [step, h]

theorem setRunState_of_eq {s : State} {r : RunState} (h : s.runState = r) : setRunState s r = s := by
  subst h; rfl

/-- Both run states that execute do so from Ready. -/
theorem referenceStep_of_not_halted {s : State} (h : s.runState ≠ .haltedFault) :
    referenceStep s = fetchAndExec (setRunState s .ready) := by
  obtain ⟨hr, -⟩ | ⟨hr, hs⟩ | ⟨-, hs⟩ := referenceStep_cases s
  · exact absurd hr h
  · rw [setRunState_of_eq hr, hs]
  · exact hs

/-- Of the three outcomes of a fetch, the word's own decoding rules out the other two. -/
theorem fetchAndExec_of_instr {s : State} {i : Instr} (hf : accessFault s.memSize s.pc = .none)
    (hd : decode (fetchWord s s.pc) = .instr i) : fetchAndExec s = exec i s := by
  obtain ⟨hbad, -⟩ | ⟨-, ⟨w, hw⟩, -⟩ | ⟨-, j, hj, he⟩ := fetchAndExec_cases s
  · exact absurd hf hbad
  · simp [hw] at hd
  · obtain rfl : j = i := by simpa [hj] using hd
    exact he

/-- Decoding the four bytes in memory at an address is decoding the word fetched there (20_memory.md R52). -/
theorem decodeBytes_fetched (s : State) (a : Word) :
    decodeBytes [readByte s.imem a.toNat, readByte s.imem (a.toNat + 1), readByte s.imem (a.toNat + 2),
      readByte s.imem (a.toNat + 3)] = some (decode (fetchWord s a), []) := rfl

/-- Settles O20: the four bytes are the word that the fetch reads, the checks pass, and each run state but Halted-Fault
executes from Ready. -/
theorem referenceStepRunsDecodedInstruction : Obligations.ReferenceStepRunsDecodedInstruction := by
  intro s i hm hr hf hb
  have hd : decode (fetchWord s s.pc) = .instr i := by simpa [decodeBytes_fetched] using hb
  calc step s
    _ = referenceStep s := step_of_singleCycle hm
    _ = fetchAndExec (setRunState s .ready) := referenceStep_of_not_halted hr
    _ = exec i (setRunState s .ready) :=
        fetchAndExec_of_instr (s := setRunState s .ready) ((fetchable_iff_accessFault_none s).mp hf) hd

end Sys2Proof.Machine
end

section
/-! Proofs for 10_state.md: the register file (R21), the invariant at reset and along every step, and that nothing reads
the status register (R27). -/

namespace Sys2Proof.Machine

/-! ## The register file (R20, R21) -/

/-- Settles O46: the cases of a read after a write, register 0 apart. -/
theorem registerFileWriteThenRead : Obligations.RegisterFileWriteThenRead := by
  intro i v s
  refine ⟨fun hi => readReg_writeReg_self s hi v, readReg_zero _, ?_, fun r hr => readReg_writeReg_other s hr v, rfl⟩
  rintro rfl
  exact writeReg_zero s v

/-! ## The parts of the invariant that a bubble satisfies (R34) -/

theorem generatedWord_zero (l : CwLayout) : generatedWord l 0 := .inl rfl

theorem ifidShape_zero : ifidShape IFID.zero := by simp [ifidShape, IFID.zero]

theorem idexShape_zero (l : CwLayout) : idexShape l IDEX.zero := by
  simp [idexShape, IDEX.zero, generatedWord_zero]

theorem exmemShape_zero (l : CwLayout) : exmemShape l EXMEM.zero := by
  simp [exmemShape, EXMEM.zero, generatedWord_zero]

theorem memwbShape_zero (l : CwLayout) : memwbShape l MEMWB.zero := by
  simp [memwbShape, MEMWB.zero, generatedWord_zero]

theorem memoriesCanonical_iff (s : State) :
    memoriesCanonical s = true ↔
      s.imem.wf = true ∧ s.dmem.wf = true ∧ s.imem.below s.memSize = true ∧ s.dmem.below s.memSize = true := by
  simp [memoriesCanonical, and_assoc]

/-! ## Reset (R40; 70_reset_and_hazards.md R381) -/

/-- With the pipeline empty and no fault taken, the invariant is about registers, memories and configuration only. -/
theorem inv_of_drained {s : State} (hd : drained s) (hrun : s.runState = .ready)
    (hrec : s.faultRecord = FaultRecord.cleared) (hz : zeroRegister s = true) (hm : memoriesCanonical s = true)
    (hl : layoutAdmissible s.layout = true) (hn : legalSize s.memSize = true) : s.Inv := by
  obtain ⟨hifid, hidex, hexmem, hmemwb⟩ := hd
  exact
    { zero := hz
      memories := hm
      layoutOk := hl
      sizeOk := hn
      ifidOk := hifid ▸ ifidShape_zero
      idexOk := hidex ▸ idexShape_zero _
      exmemOk := hexmem ▸ exmemShape_zero _
      memwbOk := hmemwb ▸ memwbShape_zero _
      together := fun _ => by rw [hidex]; rfl
      recordOk := ⟨fun h => by simp [hrun] at h, fun _ => hrec⟩ }

theorem reset_inv : State.reset.Inv :=
  inv_of_drained ⟨rfl, rfl, rfl, rfl⟩ rfl rfl (by decide) rfl default_admissible (by decide)

/-- The host's reset keeps the instruction memory, the layout and the size, so it takes their parts of the invariant
over. -/
theorem State.Inv.hostReset {s : State} (h : s.Inv) (m : Model) (pc : Word) : (hostReset m pc s).Inv := by
  obtain ⟨himem, -, hibelow, -⟩ := (memoriesCanonical_iff s).1 h.memories
  have hm : memoriesCanonical (Machine.hostReset m pc s) = true :=
    (memoriesCanonical_iff _).2 ⟨himem, wf_nil, hibelow, below_nil _⟩
  exact inv_of_drained ⟨rfl, rfl, rfl, rfl⟩ rfl rfl rfl hm h.layoutOk h.sizeOk

/-- Settles O40: both resets leave the pipeline empty. -/
theorem invariantHoldsAtReset : Obligations.InvariantHoldsAtReset :=
  ⟨reset_inv, fun _ m pc h => h.hostReset m pc⟩

/-! ## The updates of an instruction executed alone keep the invariant -/

theorem State.Inv.setPc {s : State} (h : s.Inv) (p : Word) : (setPc s p).Inv := { h with }

theorem State.Inv.writeReg {s : State} (h : s.Inv) (r : RegIdx) (v : Word) : (writeReg s r v).Inv :=
  { h with zero := zeroRegister_writeReg h.zero r v }

/-- Writing a word at an address that passes the checks keeps both memories canonical and inside their size. -/
theorem memoriesCanonical_of_checked_write {s t : State} {a : Word} (v : Word) (h : memoriesCanonical s = true)
    (ha : accessFault s.memSize a = .none) (hi : t.imem = s.imem) (hn : t.memSize = s.memSize)
    (hd : t.dmem = writeWord s.dmem a.toNat v) : memoriesCanonical t = true := by
  obtain ⟨hiwf, hdwf, hib, hdb⟩ := (memoriesCanonical_iff s).1 h
  obtain ⟨-, hrange⟩ := (accessFault_none_iff s.memSize a).1 ha
  rw [memoriesCanonical_iff, hi, hn, hd]
  exact ⟨hiwf, wf_writeWord hdwf _ v, hib, below_writeWord hdb hrange v⟩

theorem State.Inv.storeWord {s : State} (h : s.Inv) {a : Word} (ha : accessFault s.memSize a = .none) (v : Word) :
    (storeWord s a v).Inv :=
  { h with memories := memoriesCanonical_of_checked_write v h.memories ha rfl rfl rfl }

/-- A fault that is taken has a kind, so the record names one (60_exceptions.md R346). -/
theorem State.Inv.takeFault {s : State} (h : s.Inv) {k : FaultTag} (hk : k ≠ .none) (p i : Word) :
    (takeFault s k p i).Inv :=
  { h with recordOk := ⟨fun _ => hk, fun hr => absurd rfl hr⟩ }

theorem State.Inv.setReady {s : State} (h : s.Inv) (hr : s.runState ≠ .haltedFault) :
    (setRunState s .ready).Inv :=
  { h with recordOk := ⟨fun hh => (by simp at hh), fun _ => h.recordOk.2 hr⟩ }

/-! ## A step of the reference keeps the invariant (log 4) -/

theorem exec_keeps_inv {s t : State} {i : Instr} (h : s.Inv) (he : exec i s = .next t) : t.Inv := by
  obtain ⟨rd, v, p, hs⟩ | ⟨p, hs⟩ | ⟨a, v, ha, hs⟩ | ⟨a, ha, hs⟩ := exec_cases i s <;>
    obtain rfl := Host.Outcome.next.inj (hs.symm.trans he)
  · exact (h.writeReg rd v).setPc p
  · exact h.setPc p
  · exact (h.storeWord ha v).setPc _
  · exact h.takeFault ha _ _

theorem fetchAndExec_keeps_inv {s t : State} (h : s.Inv) (he : fetchAndExec s = .next t) : t.Inv := by
  obtain ⟨hf, hs⟩ | ⟨-, -, hs⟩ | ⟨-, i, -, hs⟩ := fetchAndExec_cases s
  · obtain rfl := Host.Outcome.next.inj (hs.symm.trans he)
    exact h.takeFault hf _ _
  · obtain rfl := Host.Outcome.next.inj (hs.symm.trans he)
    exact h.takeFault (by simp) _ _
  · exact exec_keeps_inv h (hs.symm.trans he)

theorem referenceStep_keeps_inv {s t : State} (h : s.Inv) (he : referenceStep s = .next t) : t.Inv := by
  by_cases hr : s.runState = .haltedFault
  · simp only [referenceStep, hr, Host.Outcome.next.injEq] at he
    exact he ▸ h
  · rw [referenceStep_of_not_halted hr] at he
    exact fetchAndExec_keeps_inv (h.setReady hr) he

/-! ## What each stage hands on, said once -/

/-- The three things ID can find: an instruction, an invalid word, or a slot with nothing to decode
(46_pipeline_stages.md R214). -/
theorem idStage_cases (s : State) :
    (∃ i, idDecoded s = .instr i ∧ cwId s = pack s.layout (decodeControl i) ∧ idFault s = .none ∧
      idFaultInfo s = 0) ∨
    (cwId s = 0 ∧ idFault s = .decode ∧ idFaultInfo s = s.ifid.instr) ∨
    (cwId s = 0 ∧ idFault s = s.ifid.fault ∧ idFaultInfo s = s.ifid.faultInfo) := by
  unfold cwId idFault idFaultInfo
  cases idOk s with
  | false => exact .inr (.inr ⟨rfl, rfl, rfl⟩)
  | true =>
    cases idDecoded s with
    | instr i => exact .inl ⟨i, rfl, rfl, rfl, rfl⟩
    | invalid w => exact .inr (.inl ⟨rfl, rfl, rfl⟩)

/-- What MEM adds to its slot: nothing, or the outcome of the check of a load or a store (R219). -/
theorem memStage_cases (s : State) :
    (memActive s = false ∧ memFault s = s.exmem.fault ∧ memFaultInfo s = s.exmem.faultInfo) ∨
    (memActive s = true ∧ memFault s = accessFault s.memSize s.exmem.aluResult ∧
      memFaultInfo s = if memFault s = .none then 0 else s.exmem.aluResult) := by
  unfold memFaultInfo memFault
  cases memActive s with
  | false => exact .inl ⟨rfl, rfl, rfl⟩
  | true => exact .inr ⟨rfl, rfl, rfl⟩

theorem isLoad_or_isStore_of_memActive {s : State} (h : memActive s = true) :
    (unpack s.layout s.exmem.cw).resSrc = 1 ∨ (unpack s.layout s.exmem.cw).memWr = 1 := by
  simp only [memActive, memIsLoad, memIsStore, ctl, Bool.and_eq_true, Bool.or_eq_true, beq_iff_eq] at h
  exact h.2

/-- MEM stores only at an address that passed its checks (R219, R227). -/
theorem accessFault_none_of_memStores {s : State} (h : memStores s = true) :
    accessFault s.memSize s.exmem.aluResult = .none := by
  simp only [memStores, memFault, Bool.and_eq_true, beq_iff_eq] at h
  obtain ⟨⟨hactive, hfault⟩, -⟩ := h
  simpa [hactive] using hfault

/-! ## A bubble moves on as a bubble (R34) -/

theorem fieldRs1_zero : fieldRs1 0#32 = 0#5 := by decide
theorem fieldRs2_zero : fieldRs2 0#32 = 0#5 := by decide
theorem fieldRd_zero : fieldRd 0#32 = 0#5 := by decide
theorem immI_zero : immI 0#32 = 0 := by decide

@[simp] theorem rfRead_zero (s : State) : rfRead s 0#5 = 0 := rfl

/-- The word of a bubble names register 0 everywhere, and its control word selects the I-immediate of 0. -/
theorem idexIn_of_bubble {s : State} (h : s.ifid = IFID.zero) : idexIn s = IDEX.zero := by
  have hok : idOk s = false := by simp [idOk, h, IFID.zero]
  have himm : immExt s = 0 := by simp [immExt, cwId, hok, h, IFID.zero, Control.zero, selectImm, immI_zero]
  simp [idexIn, idFault, idFaultInfo, cwId, hok, himm, h, IFID.zero, IDEX.zero, fieldRs1_zero, fieldRs2_zero,
    fieldRd_zero]

/-- An operand that its slot does not use is not substituted (47_hazard_forwarding.md R271). -/
@[simp] theorem selector_of_unused (s : State) (r : RegIdx) : selector s false r = .noForward := by simp [selector]

/-- The operands of a bubble are not forwarded, and EX computes 0 + 0. -/
theorem exmemIn_of_bubble {s : State} (h : s.idex = IDEX.zero) : exmemIn s = EXMEM.zero := by
  have hv : exValid s = false := by simp [exValid, h, IDEX.zero]
  have ha : srcA s = 0 := by simp [srcA, controlForwardA, useA, hv, forwardMux, h, IDEX.zero]
  have hb : regB s = 0 := by simp [regB, controlForwardB, useB, hv, forwardMux, h, IDEX.zero]
  have hm : writeData s = 0 := by simp [writeData, controlForwardM, useM, hv, forwardMux, h, IDEX.zero]
  have hc : exCtl s = Control.zero := by simp [exCtl, h, IDEX.zero]
  have hr : aluResult s = 0 := by simp [aluResult, srcB, alu, hc, ha, hb, Control.zero]
  simp [exmemIn, hm, hr, h, IDEX.zero, EXMEM.zero]

theorem memwbIn_of_bubble {s : State} (h : s.exmem = EXMEM.zero) : memwbIn s = MEMWB.zero := by
  have hactive : memActive s = false := by simp [memActive, h, EXMEM.zero]
  simp [memwbIn, memFault, memFaultInfo, memData, hactive, h, EXMEM.zero, MEMWB.zero]

/-! ## The shapes of the slots after a clock edge -/

theorem ifidShape_ifidIn (s : State) : ifidShape (ifidIn s) := by
  exact ⟨fun hv => absurd hv (by simp [ifidIn]), fun _ => rfl, fun hf => if_neg hf, fun hf => if_pos hf,
    accessFault_ne_decode s.memSize s.pc⟩

theorem ifidShape_ifidNext {s : State} (h : ifidShape s.ifid) : ifidShape (ifidNext s) := by
  unfold ifidNext
  split
  · exact ifidShape_zero
  · split
    · exact h
    · exact ifidShape_ifidIn s

theorem idexShape_idexIn {s : State} (h : ifidShape s.ifid) : idexShape s.layout (idexIn s) := by
  obtain ⟨hbubble, hnext, -, hinfo, -⟩ := h
  refine ⟨fun hv => idexIn_of_bubble (hbubble hv), hnext, ?_⟩
  change (idFault s ≠ .none → cwId s = 0) ∧ (idFault s = .none → idFaultInfo s = 0) ∧ generatedWord s.layout (cwId s)
  obtain ⟨i, -, hcw, hf, hi⟩ | ⟨hcw, hf, -⟩ | ⟨hcw, hf, hi⟩ := idStage_cases s
  · exact ⟨fun hne => absurd hf hne, fun _ => hi, .inr ⟨i, hcw⟩⟩
  · exact ⟨fun _ => hcw, fun he => by simp [hf] at he, .inl hcw⟩
  · exact ⟨fun _ => hcw, fun he => hi.trans (hinfo (hf.symm.trans he)), .inl hcw⟩

theorem idexShape_idexNext {s : State} (h : ifidShape s.ifid) : idexShape s.layout (idexNext s) := by
  unfold idexNext
  split
  · exact idexShape_zero _
  · exact idexShape_idexIn h

/-- EX hands tag, fault_info, address and control word on as they are (R218). -/
theorem exmemShape_exmemIn {s : State} (h : idexShape s.layout s.idex) : exmemShape s.layout (exmemIn s) := by
  obtain ⟨hbubble, hrest⟩ := h
  exact ⟨fun hv => exmemIn_of_bubble (hbubble hv), hrest⟩

theorem memwbShape_memwbIn {s : State} (h : exmemShape s.layout s.exmem) : memwbShape s.layout (memwbIn s) := by
  obtain ⟨hbubble, hnext, htagged, hinfo, hcw⟩ := h
  refine ⟨fun hv => memwbIn_of_bubble (hbubble hv), hnext, fun hf => ?_, fun hf => ?_, hcw⟩
  · obtain ⟨-, he, -⟩ | ⟨hactive, -, -⟩ := memStage_cases s
    · exact .inl (htagged (he ▸ hf))
    · exact .inr (isLoad_or_isStore_of_memActive hactive)
  · obtain ⟨-, he, hi⟩ | ⟨-, -, hi⟩ := memStage_cases s
    · exact hi.trans (hinfo (he.symm.trans hf))
    · exact hi.trans (if_pos hf)

/-- A bubble in ID after the edge was put there by a flush, which empties EX too, or held there by a stall, which does
the same (R224, R225). -/
theorem bubblesTogether_clockEdge (s : State) : bubblesTogether (clockEdge s) := by
  intro hv
  simp only [clockEdge_ifid, ifidNext] at hv
  cases hf : flush s with
  | true => simp [idexNext, hf, IDEX.zero]
  | false =>
    cases hst : stall s with
    | true => simp [idexNext, hst, IDEX.zero]
    | false => simp [hf, hst, ifidIn] at hv

/-! ## A tick keeps the invariant (R210, R222 to R228) -/

theorem zeroRegister_clockEdge {s : State} (h : zeroRegister s = true) : zeroRegister (clockEdge s) = true := by
  cases hw : wbEn s with
  | false => simpa [zeroRegister, regsNext, hw] using h
  | true => simpa [zeroRegister, regsNext, hw] using zeroRegister_writeReg h s.memwb.rd (wbResult s)

theorem memoriesCanonical_clockEdge {s : State} (h : memoriesCanonical s = true) :
    memoriesCanonical (clockEdge s) = true := by
  cases hst : memStores s with
  | false => simpa [memoriesCanonical, dmemNext, hst] using h
  | true =>
    exact memoriesCanonical_of_checked_write s.exmem.storeData h (accessFault_none_of_memStores hst) rfl rfl
      (if_pos hst)

theorem State.Inv.clockEdge {s : State} (h : s.Inv) (hr : s.runState ≠ .haltedFault) : (clockEdge s).Inv where
  zero     := zeroRegister_clockEdge h.zero
  memories := memoriesCanonical_clockEdge h.memories
  layoutOk := h.layoutOk
  sizeOk   := h.sizeOk
  ifidOk   := ifidShape_ifidNext h.ifidOk
  idexOk   := idexShape_idexNext h.ifidOk
  exmemOk  := exmemShape_exmemIn h.idexOk
  memwbOk  := memwbShape_memwbIn h.exmemOk
  together := bubblesTogether_clockEdge s
  recordOk := ⟨fun hh => (by simp at hh), fun _ => h.recordOk.2 hr⟩

/-- A halt tick takes the tag of the slot in WB, which is not 0 (R222). -/
theorem memwb_fault_ne_none_of_haltTick {s : State} (h : haltTick s = true) : s.memwb.fault ≠ .none := by
  simp only [haltTick, Bool.and_eq_true, bne_iff_ne] at h
  exact h.2

theorem State.Inv.tick {s : State} (h : s.Inv) : (tick s).Inv := by
  obtain ⟨-, ht⟩ | ⟨-, hhalt, ht⟩ | ⟨hr, -, ht⟩ := tick_cases s
  · rw [ht]; exact h
  · rw [ht]; exact h.takeFault (memwb_fault_ne_none_of_haltTick hhalt) _ _
  · rw [ht]; exact h.clockEdge hr

/-- Settles O41: a step is one instruction of the reference or one tick, and both keep the invariant. -/
theorem invariantKeptByEveryStep : Obligations.InvariantKeptByEveryStep := by
  intro s t h hstep
  obtain ⟨-, href⟩ | ⟨-, -, rfl⟩ := step_next_cases hstep
  · exact referenceStep_keeps_inv h href
  · exact h.tick

/-! ## Nothing reads the status register (R27) -/

/-- The state with another status register, and another count of the free values drawn for it. -/
def State.withStatus (s : State) (x : Word) (n : Nat) : State := { s with status := x, statusDraws := n }

theorem sameButStatus_iff {s t : State} : Claims.sameButStatus s t ↔ ∃ x n, t = s.withStatus x n := by
  refine ⟨fun h => ⟨t.status, t.statusDraws, h⟩, ?_⟩
  rintro ⟨x, n, rfl⟩
  rfl

/-- A next state changed by `f`; the other outcomes as they are. -/
def mapNext (f : State → State) : Host.Outcome State Fault Refusal → Host.Outcome State Fault Refusal
  | .next s => .next (f s)
  | .fault r => .fault r
  | .refused r => .refused r

section
variable (s : State) (x : Word) (n : Nat)

@[simp] theorem withStatus_memSize : (s.withStatus x n).memSize = s.memSize := rfl
@[simp] theorem withStatus_pc : (s.withStatus x n).pc = s.pc := rfl
@[simp] theorem fetchWord_withStatus (a : Word) : fetchWord (s.withStatus x n) a = fetchWord s a := rfl

theorem dataAccess_withStatus (a : Word) (access : State) :
    dataAccess a (s.withStatus x n) (access.withStatus x n) = mapNext (·.withStatus x n) (dataAccess a s access) := by
  by_cases h : accessFault s.memSize a = .none
  · rw [dataAccess_of_ok h, dataAccess_of_ok (s := s.withStatus x n) h]; rfl
  · rw [dataAccess_of_fault h, dataAccess_of_fault (s := s.withStatus x n) h]; rfl

/-- An instruction leaves status as it finds it and does the same for every content of it: a load or store through its
address check, every other by unfolding alone. -/
theorem exec_withStatus (i : Instr) : exec i (s.withStatus x n) = mapNext (·.withStatus x n) (exec i s) := by
  cases i with
  | lw rd rs1 imm => exact dataAccess_withStatus s x n _ (writeReg s rd (loadWord s (effectiveAddress s rs1 imm)))
  | sw rs2 rs1 imm =>
    exact dataAccess_withStatus s x n _ (storeWord s (effectiveAddress s rs1 imm) (regOperand s rs2))
  | _ => rfl

theorem fetchAndExec_withStatus : fetchAndExec (s.withStatus x n) = mapNext (·.withStatus x n) (fetchAndExec s) := by
  simp only [fetchAndExec, withStatus_memSize, withStatus_pc, fetchWord_withStatus]
  cases accessFault s.memSize s.pc with
  | none =>
    cases decode (fetchWord s s.pc) with
    | instr i => exact exec_withStatus s x n i
    | invalid w => rfl
  | _ => rfl

theorem referenceStep_withStatus :
    referenceStep (s.withStatus x n) = mapNext (·.withStatus x n) (referenceStep s) := by
  by_cases hr : s.runState = .haltedFault
  · have hr' : (s.withStatus x n).runState = .haltedFault := hr
    simp only [referenceStep, hr, hr', mapNext]
  · rw [referenceStep_of_not_halted hr, referenceStep_of_not_halted (s := s.withStatus x n) hr]
    exact fetchAndExec_withStatus (setRunState s .ready) x n

/-- A tick may draw a new status, and computes everything else without it. -/
theorem tick_withStatus : Claims.sameButStatus (tick s) (tick (s.withStatus x n)) := by
  obtain ⟨hr, ht⟩ | ⟨hr, hhalt, ht⟩ | ⟨hr, hhalt, ht⟩ := tick_cases s
  · rw [ht, tick_of_halted (s := s.withStatus x n) hr]; rfl
  · rw [ht, tick_of_haltTick (s := s.withStatus x n) hr hhalt]; rfl
  · rw [ht, tick_of_edge (s := s.withStatus x n) hr hhalt]; rfl

end

theorem step_of_ticking {s : State} (h : Claims.ticking s) : step s = .next (tick s) := by
  obtain ⟨hm, hl⟩ := h
  unfold step
  cases h : s.model with
  | singleCycle => exact absurd h hm
  | pipelined => exact if_pos hl
  | general => exact if_pos hl

/-- Settles O54: a step is one instruction of the reference or one tick, and neither reads status. -/
theorem nothingDependsOnStatus : Obligations.NothingDependsOnStatus := by
  intro s t s' hst hstep
  obtain ⟨x, n, rfl⟩ := sameButStatus_iff.1 hst
  obtain ⟨hm, href⟩ | ⟨hm, hl, rfl⟩ := step_next_cases hstep
  · refine ⟨s'.withStatus x n, ?_, sameButStatus_iff.2 ⟨x, n, rfl⟩⟩
    rw [step_of_singleCycle (s := s.withStatus x n) hm, referenceStep_withStatus, href, mapNext]
  · exact ⟨_, step_of_ticking (s := s.withStatus x n) ⟨hm, hl⟩, tick_withStatus s x n⟩

end Sys2Proof.Machine
end

section
/-! Proofs for 20_memory.md: the fetch faults of the SingleCycle reference (R55, R56), and that only `load_program`
changes the program (R65). -/

namespace Sys2Proof.Machine

/-! ## Fetch faults of the reference (R54 to R56; log 4) -/

/-- A failing fetch check is taken at pc, whatever stands in memory. -/
theorem fetchAndExec_of_fault {s : State} {k : FaultTag} (hf : accessFault s.memSize s.pc = k) (hk : k ≠ .none) :
    fetchAndExec s = .next (takeFault s k s.pc s.pc) := by
  subst hf
  obtain ⟨-, he⟩ | ⟨hok, -⟩ | ⟨hok, -⟩ := fetchAndExec_cases s
  · exact he
  · exact absurd hok hk
  · exact absurd hok hk

theorem fetchAndExec_of_invalid {s : State} {why : InvalidReason} (hf : accessFault s.memSize s.pc = .none)
    (hd : decode (fetchWord s s.pc) = .invalid why) :
    fetchAndExec s = .next (takeFault s .decode s.pc (fetchWord s s.pc)) := by
  obtain ⟨hbad, -⟩ | ⟨-, -, he⟩ | ⟨-, i, hi, -⟩ := fetchAndExec_cases s
  · exact absurd hf hbad
  · exact he
  · simp [hd] at hi

theorem step_of_ready_reference {s : State} (hm : s.model = .singleCycle) (hr : s.runState = .ready) :
    step s = fetchAndExec s := by
  rw [step_of_singleCycle hm, referenceStep_of_not_halted (by simp [hr]), setRunState_of_eq hr]

/-- Settles O21: the outcome of the fetch check selects the case. -/
theorem referenceStepTakesFetchFaults : Obligations.ReferenceStepTakesFetchFaults := by
  intro s hm hr
  rw [step_of_ready_reference hm hr]
  refine ⟨fun hmis => ?_, fun haligned hout => ?_, fun hfetch ⟨why, hd⟩ => ?_⟩
  · exact fetchAndExec_of_fault ((accessFault_alignment_iff _ _).2 hmis) (by decide)
  · exact fetchAndExec_of_fault ((accessFault_range_iff _ _).2 ⟨haligned, hout⟩) (by decide)
  · exact fetchAndExec_of_invalid ((fetchable_iff_accessFault_none s).1 hfetch) hd

/-! ## A step keeps the program and the configuration (R65; 10_state.md R38) -/

/-- The instruction memory and the configuration fields of a state. -/
def programAndConfig (s : State) : Memory × Model × Bool × Bool × Bool × CwLayout × Delay × Nat :=
  (s.imem, s.model, s.stallsEn, s.flushesEn, s.forwardingEn, s.layout, s.delay, s.memSize)

theorem exec_keeps_programAndConfig {s t : State} {i : Instr} (he : exec i s = .next t) :
    programAndConfig t = programAndConfig s := by
  obtain ⟨rd, v, p, hs⟩ | ⟨p, hs⟩ | ⟨a, v, -, hs⟩ | ⟨a, -, hs⟩ := exec_cases i s <;>
    obtain rfl := Host.Outcome.next.inj (hs.symm.trans he) <;>
    rfl

theorem fetchAndExec_keeps_programAndConfig {s t : State} (he : fetchAndExec s = .next t) :
    programAndConfig t = programAndConfig s := by
  obtain ⟨-, hs⟩ | ⟨-, -, hs⟩ | ⟨-, i, -, hs⟩ := fetchAndExec_cases s
  · obtain rfl := Host.Outcome.next.inj (hs.symm.trans he)
    rfl
  · obtain rfl := Host.Outcome.next.inj (hs.symm.trans he)
    rfl
  · exact exec_keeps_programAndConfig (hs.symm.trans he)

theorem referenceStep_keeps_programAndConfig {s t : State} (he : referenceStep s = .next t) :
    programAndConfig t = programAndConfig s := by
  obtain ⟨-, hs⟩ | ⟨-, hs⟩ | ⟨-, hs⟩ := referenceStep_cases s
  · obtain rfl := Host.Outcome.next.inj (hs.symm.trans he)
    rfl
  · exact fetchAndExec_keeps_programAndConfig (hs.symm.trans he)
  · exact fetchAndExec_keeps_programAndConfig (s := setRunState s .ready) (hs.symm.trans he)

theorem tick_keeps_programAndConfig (s : State) : programAndConfig (tick s) = programAndConfig s := by
  obtain ⟨-, ht⟩ | ⟨-, -, ht⟩ | ⟨-, -, ht⟩ := tick_cases s <;> rw [ht] <;> rfl

theorem step_keeps_programAndConfig {s t : State} (h : step s = .next t) :
    programAndConfig t = programAndConfig s := by
  obtain ⟨-, href⟩ | ⟨-, -, rfl⟩ := step_next_cases h
  · exact referenceStep_keeps_programAndConfig href
  · exact tick_keeps_programAndConfig s

/-! ## The host's calls (49_host_interface.md R323 to R329) -/

theorem setHazardOptions_imem (stalls flushes forwarding : Bool) (s : State) :
    (setHazardOptions stalls flushes forwarding s).imem = s.imem := by
  unfold setHazardOptions
  split <;> rfl

/-- A word write of the host that succeeds is a store at an address that passes the checks. -/
theorem hostWriteWord_eq_ok_iff {s t : State} {a v : Word} :
    hostWriteWord a v s = .ok t ↔ accessFault s.memSize a = .none ∧ storeWord s a v = t := by
  unfold hostWriteWord
  cases accessFault s.memSize a <;> simp

/-- A step back that succeeds restores the newest entry of the history. -/
theorem stepBack_eq_restored_iff {x y : Session} :
    stepBack x = .restored y ↔
      ∃ e rest, x.history = .entry e :: rest ∧ (⟨restoreEntry e x.block, rest, x.bound⟩ : Session) = y := by
  unfold stepBack
  split <;> simp [*]

theorem loadProgram_eq_ok_iff {s t : State} {bytes : List Byte} :
    loadProgram bytes s = .ok t ↔ bytes.length ≤ s.memSize ∧ { s with imem := memoryOfBytes 0 bytes } = t := by
  unfold loadProgram
  split
  next hlong => simp [Nat.not_le.2 hlong]
  next hfits => simp [Nat.not_lt.1 hfits]

/-- Byte `k` of a byte array made from a byte string is byte `k` of the string, and 0 after its end. -/
theorem readByte_memoryOfBytes (bytes : List Byte) (a k : Nat) :
    readByte (memoryOfBytes a bytes) (a + k) = bytes.getD k 0 := by
  induction bytes generalizing a k with
  | nil => rfl
  | cons b rest ih =>
    have hlater : ∀ j, readByte (memoryOfBytes (a + 1) rest) (a + (j + 1)) = rest.getD j 0 := fun j => by
      rw [← ih (a + 1) j]
      congr 1
      omega
    unfold memoryOfBytes
    split
    next hb =>
      cases k with
      | zero => exact (readByte_of_lt fun c hc => (le_of_mem_memoryOfBytes hc).1).trans hb.symm
      | succ j => exact hlater j
    next =>
      cases k with
      | zero => simp [readByte]
      | succ j => simpa [readByte] using hlater j

/-- Settles O29: a step through what it can do, a call through what its success means. -/
theorem programAndConfigurationKept : Obligations.ProgramAndConfigurationKept := by
  refine ⟨fun s t h => by simpa [programAndConfig] using step_keeps_programAndConfig h, fun _ _ _ => rfl,
    fun s a b c => setHazardOptions_imem a b c s, fun _ _ _ => rfl, fun s t a v h => ?_, fun x y h => ?_,
    fun s t bytes h a => ?_⟩
  · obtain ⟨-, rfl⟩ := hostWriteWord_eq_ok_iff.1 h
    rfl
  · obtain ⟨e, rest, -, rfl⟩ := stepBack_eq_restored_iff.1 h
    rfl
  · obtain ⟨-, rfl⟩ := loadProgram_eq_ok_iff.1 h
    simpa using readByte_memoryOfBytes bytes 0 a

end Sys2Proof.Machine
end

section
/-! Proofs for 30_encoding.md: decoder and encoder are inverse (R89, R93). -/

namespace Sys2Proof.Machine

/-! ## Decoding an encoded instruction (R89, R93) -/

/-- The major opcode and the function codes of the encoder select the instruction's own branch of the decoder, and the
fields give its operands back. -/
theorem decode_encode {i : Instr} (h : i.wellFormed = true) : decode (encode i) = .instr i := by
  cases i with
  | beq rs1 rs2 imm => simp [encode, decode, decodeBranch, rawImmB_encodeB (imm := imm) h]
  | bne rs1 rs2 imm => simp [encode, decode, decodeBranch, rawImmB_encodeB (imm := imm) h]
  | jal rd imm => simp [encode, decode, rawImmJ_encodeJ (imm := imm) h]
  | sw rs2 rs1 imm => simp [encode, decode, decodeStore]
  | lw rd rs1 imm => simp [encode, decode, decodeLoad]
  | jalr rd rs1 imm => simp [encode, decode, decodeJalr]
  | addi | slti | sltiu | xori | ori | andi | slli | srli | srai => simp [encode, decode, decodeOpImm]
  | _ => simp [encode, decode, decodeOp]

/-- The bytes of a word in memory order decode as the word, and what follows them is handed back (R80). -/
theorem decodeBytes_bytesOfWord (w : Word) (rest : List Byte) :
    decodeBytes (bytesOfWord w ++ rest) = some (decode w, rest) := by
  simp [bytesOfWord, decodeBytes, wordOfBytes_bytes]

/-- On 32 bits the table decoder is the decoder of the word with that number. -/
theorem decodeTableWord_toNat (w : Word) : decodeTableWord 32 w.toNat = (decode w).toOption := by
  have hw : BitVec.ofNat 32 (w.toNat % 2 ^ 32) = w := by simp [Nat.mod_eq_of_lt w.isLt]
  have hb := decodeBytes_bytesOfWord w []
  rw [List.append_nil] at hb
  rw [decodeTableWord, hw, hb]

/-- Settles O1: the word decodes to the instruction, and bytes and table number decode as the word. -/
theorem decodeOfEncodeIsIdentity : Obligations.DecodeOfEncodeIsIdentity := by
  intro i h
  refine ⟨decode_encode h, fun rest => ?_, ?_⟩
  · rw [decodeBytes_bytesOfWord, decode_encode h]
  · rw [decodeTableWord_toNat, decode_encode h]; rfl

/-! ## Encoding what a word decodes to (R91, R93) -/

section
variable {w : Word} {i : Instr} {op f7 : BitVec 7} {f3 : BitVec 3}

theorem encodeR_eq_of_fields (ho : fieldOpcode w = op) (h3 : fieldFunct3 w = f3) (h7 : fieldFunct7 w = f7) :
    encodeR f7 (fieldRs2 w) (fieldRs1 w) f3 (fieldRd w) op = w := by
  rw [← ho, ← h3, ← h7, encodeR_fields]

theorem encodeI_eq_of_fields (ho : fieldOpcode w = op) (h3 : fieldFunct3 w = f3) :
    encodeI (rawImmI w) (fieldRs1 w) f3 (fieldRd w) op = w := by
  rw [← ho, ← h3, encodeI_fields]

theorem encodeS_eq_of_fields (ho : fieldOpcode w = op) (h3 : fieldFunct3 w = f3) :
    encodeS (rawImmS w) (fieldRs2 w) (fieldRs1 w) f3 op = w := by
  rw [← ho, ← h3, encodeS_fields]

theorem encodeB_eq_of_fields (ho : fieldOpcode w = op) (h3 : fieldFunct3 w = f3) :
    encodeB (rawImmB w) (fieldRs2 w) (fieldRs1 w) f3 op = w := by
  rw [← ho, ← h3, encodeB_fields]

theorem encodeJ_eq_of_fields (ho : fieldOpcode w = op) : encodeJ (rawImmJ w) (fieldRd w) op = w := by
  rw [← ho, encodeJ_fields]

/-- Bit 0 of a B-immediate is a constant of the format (R85). -/
theorem evenOffset13_rawImmB (w : Word) : evenOffset13 (rawImmB w) = true := by
  simp only [evenOffset13, getLsbD_rawImmB]
  rfl

/-- Bit 0 of a J-immediate is a constant of the format (R86). -/
theorem evenOffset21_rawImmJ (w : Word) : evenOffset21 (rawImmJ w) = true := by
  simp only [evenOffset21, getLsbD_rawImmJ]
  rfl

/-- Major opcode OP. Its last branch names no funct3, which is the one left over. -/
theorem encode_of_decodeOp (ho : fieldOpcode w = 0b0110011#7) (h : decodeOp w = .instr i) :
    i.wellFormed = true ∧ encode i = w := by
  unfold decodeOp at h
  split_ifs at h <;> cases h
  case neg =>
    have h3 : fieldFunct3 w = 0b111#3 := by bv_omega
    exact ⟨rfl, encodeR_eq_of_fields ho h3 ‹_›⟩
  all_goals exact ⟨rfl, encodeR_eq_of_fields ho ‹_› ‹_›⟩

/-- Major opcode OP-IMM: the shifts have the R format's fields, and the right shifts the funct3 left over. -/
theorem encode_of_decodeOpImm (ho : fieldOpcode w = 0b0010011#7) (h : decodeOpImm w = .instr i) :
    i.wellFormed = true ∧ encode i = w := by
  unfold decodeOpImm at h
  split_ifs at h with h0 h2 h3 h4 h6 h7 h1 hleft hright harith <;> cases h
  · exact ⟨rfl, encodeI_eq_of_fields ho h0⟩
  · exact ⟨rfl, encodeI_eq_of_fields ho h2⟩
  · exact ⟨rfl, encodeI_eq_of_fields ho h3⟩
  · exact ⟨rfl, encodeI_eq_of_fields ho h4⟩
  · exact ⟨rfl, encodeI_eq_of_fields ho h6⟩
  · exact ⟨rfl, encodeI_eq_of_fields ho h7⟩
  · exact ⟨rfl, encodeR_eq_of_fields ho h1 hleft⟩
  all_goals have h5 : fieldFunct3 w = 0b101#3 := by bv_omega
  · exact ⟨rfl, encodeR_eq_of_fields ho h5 hright⟩
  · exact ⟨rfl, encodeR_eq_of_fields ho h5 harith⟩

theorem encode_of_decodeLoad (ho : fieldOpcode w = 0b0000011#7) (h : decodeLoad w = .instr i) :
    i.wellFormed = true ∧ encode i = w := by
  unfold decodeLoad at h
  split_ifs at h with h2
  cases h
  exact ⟨rfl, encodeI_eq_of_fields ho h2⟩

theorem encode_of_decodeStore (ho : fieldOpcode w = 0b0100011#7) (h : decodeStore w = .instr i) :
    i.wellFormed = true ∧ encode i = w := by
  unfold decodeStore at h
  split_ifs at h with h2
  cases h
  exact ⟨rfl, encodeS_eq_of_fields ho h2⟩

theorem encode_of_decodeBranch (ho : fieldOpcode w = 0b1100011#7) (h : decodeBranch w = .instr i) :
    i.wellFormed = true ∧ encode i = w := by
  unfold decodeBranch at h
  split_ifs at h with h0 h1 <;> cases h
  · exact ⟨evenOffset13_rawImmB w, encodeB_eq_of_fields ho h0⟩
  · exact ⟨evenOffset13_rawImmB w, encodeB_eq_of_fields ho h1⟩

theorem encode_of_decodeJalr (ho : fieldOpcode w = 0b1100111#7) (h : decodeJalr w = .instr i) :
    i.wellFormed = true ∧ encode i = w := by
  unfold decodeJalr at h
  split_ifs at h with h0
  cases h
  exact ⟨rfl, encodeI_eq_of_fields ho h0⟩

end

/-- Settles O2: each major opcode's decoder reads every field that the encoder of its format writes. -/
theorem encodeOfDecodeIsIdentity : Obligations.EncodeOfDecodeIsIdentity := by
  intro w i h
  unfold decode at h
  split_ifs at h with hop himm hload hstore hbranch hjal hjalr
  · exact encode_of_decodeOp hop h
  · exact encode_of_decodeOpImm himm h
  · exact encode_of_decodeLoad hload h
  · exact encode_of_decodeStore hstore h
  · exact encode_of_decodeBranch hbranch h
  · cases h
    exact ⟨evenOffset21_rawImmJ w, encodeJ_eq_of_fields hjal⟩
  · exact encode_of_decodeJalr hjalr h

/-- A word decodes to the well-formed instruction that it encodes, and to nothing else (R91, R93). -/
theorem decode_eq_instr_iff {w : Word} {i : Instr} : decode w = .instr i ↔ i.wellFormed = true ∧ encode i = w := by
  refine ⟨encodeOfDecodeIsIdentity w i, ?_⟩
  rintro ⟨hwf, rfl⟩
  exact decode_encode hwf

end Sys2Proof.Machine
end

section
/-! Proofs for 30_encoding.md: the opcode table (R89) and the words outside the subset (R80, R87, R91). -/

namespace Sys2Proof.Machine

/-! ## Matching a mask is matching the fields (R81, R89) -/

section
variable (v w : Word)

theorem fieldOpcode_and : fieldOpcode (v &&& w) = fieldOpcode v &&& fieldOpcode w := BitVec.extractLsb'_and
theorem fieldRd_and : fieldRd (v &&& w) = fieldRd v &&& fieldRd w := BitVec.extractLsb'_and
theorem fieldFunct3_and : fieldFunct3 (v &&& w) = fieldFunct3 v &&& fieldFunct3 w := BitVec.extractLsb'_and
theorem fieldRs1_and : fieldRs1 (v &&& w) = fieldRs1 v &&& fieldRs1 w := BitVec.extractLsb'_and
theorem fieldRs2_and : fieldRs2 (v &&& w) = fieldRs2 v &&& fieldRs2 w := BitVec.extractLsb'_and
theorem fieldFunct7_and : fieldFunct7 (v &&& w) = fieldFunct7 v &&& fieldFunct7 w := BitVec.extractLsb'_and

end

/-- The six fields of R81 cover the word. -/
theorem eq_iff_fields_eq {v w : Word} :
    v = w ↔ fieldOpcode v = fieldOpcode w ∧ fieldRd v = fieldRd w ∧ fieldFunct3 v = fieldFunct3 w ∧
      fieldRs1 v = fieldRs1 w ∧ fieldRs2 v = fieldRs2 w ∧ fieldFunct7 v = fieldFunct7 w := by
  refine ⟨fun h => h ▸ ⟨rfl, rfl, rfl, rfl, rfl, rfl⟩, ?_⟩
  rintro ⟨hop, hrd, h3, h1, h2, h7⟩
  rw [← encodeR_fields v, ← encodeR_fields w, hop, hrd, h3, h1, h2, h7]

/-- A mask that keeps opcode and function codes turns a word into the word of these fields alone. -/
theorem and_eq_encodeR (w : Word) (m7 : BitVec 7) (m3 : BitVec 3) :
    w &&& encodeR m7 0 0 m3 0 0x7F = encodeR (fieldFunct7 w &&& m7) 0 0 (fieldFunct3 w &&& m3) 0 (fieldOpcode w) := by
  have hall : ∀ x : BitVec 7, x &&& 0x7F#7 = x := fun x => BitVec.and_allOnes
  simp [eq_iff_fields_eq, fieldOpcode_and, fieldRd_and, fieldFunct3_and, fieldRs1_and, fieldRs2_and, fieldFunct7_and,
    hall]

/-- The mask of the rows that fix opcode, funct3 and funct7. -/
theorem and_opcode_functs (w : Word) :
    w &&& 0xFE00707F#32 = encodeR (fieldFunct7 w) 0 0 (fieldFunct3 w) 0 (fieldOpcode w) := by
  have h := and_eq_encodeR w (BitVec.allOnes 7) (BitVec.allOnes 3)
  rwa [BitVec.and_allOnes, BitVec.and_allOnes] at h

/-- The mask of the rows that fix opcode and funct3. -/
theorem and_opcode_funct3 (w : Word) : w &&& 0x0000707F#32 = encodeR 0 0 0 (fieldFunct3 w) 0 (fieldOpcode w) := by
  have h := and_eq_encodeR w 0#7 (BitVec.allOnes 3)
  rwa [BitVec.and_zero, BitVec.and_allOnes] at h

/-- The mask of the row that fixes the opcode alone. -/
theorem and_opcode (w : Word) : w &&& 0x0000007F#32 = encodeR 0 0 0 0 0 (fieldOpcode w) := by
  have h := and_eq_encodeR w 0#7 0#3
  rwa [BitVec.and_zero, BitVec.and_zero] at h

/-! ## The rows of the table (R89) -/

/-- The instruction of a row, with its operands read from a word in the row's format (R82). -/
def rowInstr (m : Mnemonic) (w : Word) : Instr :=
  match m with
  | .ADD   => .add (fieldRd w) (fieldRs1 w) (fieldRs2 w)
  | .SUB   => .sub (fieldRd w) (fieldRs1 w) (fieldRs2 w)
  | .SLL   => .sll (fieldRd w) (fieldRs1 w) (fieldRs2 w)
  | .SLT   => .slt (fieldRd w) (fieldRs1 w) (fieldRs2 w)
  | .SLTU  => .sltu (fieldRd w) (fieldRs1 w) (fieldRs2 w)
  | .XOR   => .xor (fieldRd w) (fieldRs1 w) (fieldRs2 w)
  | .SRL   => .srl (fieldRd w) (fieldRs1 w) (fieldRs2 w)
  | .SRA   => .sra (fieldRd w) (fieldRs1 w) (fieldRs2 w)
  | .OR    => .or (fieldRd w) (fieldRs1 w) (fieldRs2 w)
  | .AND   => .and (fieldRd w) (fieldRs1 w) (fieldRs2 w)
  | .ADDI  => .addi (fieldRd w) (fieldRs1 w) (rawImmI w)
  | .SLTI  => .slti (fieldRd w) (fieldRs1 w) (rawImmI w)
  | .SLTIU => .sltiu (fieldRd w) (fieldRs1 w) (rawImmI w)
  | .XORI  => .xori (fieldRd w) (fieldRs1 w) (rawImmI w)
  | .ORI   => .ori (fieldRd w) (fieldRs1 w) (rawImmI w)
  | .ANDI  => .andi (fieldRd w) (fieldRs1 w) (rawImmI w)
  | .SLLI  => .slli (fieldRd w) (fieldRs1 w) (rawShamt w)
  | .SRLI  => .srli (fieldRd w) (fieldRs1 w) (rawShamt w)
  | .SRAI  => .srai (fieldRd w) (fieldRs1 w) (rawShamt w)
  | .LW    => .lw (fieldRd w) (fieldRs1 w) (rawImmI w)
  | .SW    => .sw (fieldRs2 w) (fieldRs1 w) (rawImmS w)
  | .BEQ   => .beq (fieldRs1 w) (fieldRs2 w) (rawImmB w)
  | .BNE   => .bne (fieldRs1 w) (fieldRs2 w) (rawImmB w)
  | .JAL   => .jal (fieldRd w) (rawImmJ w)
  | .JALR  => .jalr (fieldRd w) (fieldRs1 w) (rawImmI w)

@[simp] theorem mnemonic_rowInstr (m : Mnemonic) (w : Word) : (rowInstr m w).mnemonic = m := by cases m <;> rfl

section
variable {w pattern : Word}

theorem fields_of_match_functs (h : w &&& 0xFE00707F#32 = pattern) :
    fieldOpcode w = fieldOpcode pattern ∧ fieldFunct3 w = fieldFunct3 pattern ∧
      fieldFunct7 w = fieldFunct7 pattern := by
  simp [← h, and_opcode_functs]

theorem fields_of_match_funct3 (h : w &&& 0x0000707F#32 = pattern) :
    fieldOpcode w = fieldOpcode pattern ∧ fieldFunct3 w = fieldFunct3 pattern := by
  simp [← h, and_opcode_funct3]

theorem opcode_of_match (h : w &&& 0x0000007F#32 = pattern) : fieldOpcode w = fieldOpcode pattern := by
  simp [← h, and_opcode]

theorem encodeR_of_match {op f7 : BitVec 7} {f3 : BitVec 3} (h : w &&& 0xFE00707F#32 = pattern)
    (hop : fieldOpcode pattern = op) (h3 : fieldFunct3 pattern = f3) (h7 : fieldFunct7 pattern = f7) :
    encodeR f7 (fieldRs2 w) (fieldRs1 w) f3 (fieldRd w) op = w := by
  obtain ⟨eop, e3, e7⟩ := fields_of_match_functs h
  exact encodeR_eq_of_fields (eop.trans hop) (e3.trans h3) (e7.trans h7)

theorem encodeI_of_match {op : BitVec 7} {f3 : BitVec 3} (h : w &&& 0x0000707F#32 = pattern)
    (hop : fieldOpcode pattern = op) (h3 : fieldFunct3 pattern = f3) :
    encodeI (rawImmI w) (fieldRs1 w) f3 (fieldRd w) op = w := by
  obtain ⟨eop, e3⟩ := fields_of_match_funct3 h
  exact encodeI_eq_of_fields (eop.trans hop) (e3.trans h3)

theorem encodeS_of_match {op : BitVec 7} {f3 : BitVec 3} (h : w &&& 0x0000707F#32 = pattern)
    (hop : fieldOpcode pattern = op) (h3 : fieldFunct3 pattern = f3) :
    encodeS (rawImmS w) (fieldRs2 w) (fieldRs1 w) f3 op = w := by
  obtain ⟨eop, e3⟩ := fields_of_match_funct3 h
  exact encodeS_eq_of_fields (eop.trans hop) (e3.trans h3)

theorem encodeB_of_match {op : BitVec 7} {f3 : BitVec 3} (h : w &&& 0x0000707F#32 = pattern)
    (hop : fieldOpcode pattern = op) (h3 : fieldFunct3 pattern = f3) :
    encodeB (rawImmB w) (fieldRs2 w) (fieldRs1 w) f3 op = w := by
  obtain ⟨eop, e3⟩ := fields_of_match_funct3 h
  exact encodeB_eq_of_fields (eop.trans hop) (e3.trans h3)

theorem encodeJ_of_match {op : BitVec 7} (h : w &&& 0x0000007F#32 = pattern) (hop : fieldOpcode pattern = op) :
    encodeJ (rawImmJ w) (fieldRd w) op = w :=
  encodeJ_eq_of_fields ((opcode_of_match h).trans hop)

/-- A word that matches a row is the encoding of the row's instruction with the operands read from the word. -/
theorem encode_rowInstr_of_match {row : OpcodeRow} (hrow : row ∈ opcodeTable) (h : w &&& row.mask = row.pattern) :
    (rowInstr row.mnemonic w).wellFormed = true ∧ encode (rowInstr row.mnemonic w) = w := by
  simp only [opcodeTable, List.mem_append] at hrow
  obtain (hop | himm) | hrest := hrow
  · simp only [opcodeRowsOp, List.mem_cons, List.not_mem_nil, or_false] at hop
    rcases hop with rfl | rfl | rfl | rfl | rfl | rfl | rfl | rfl | rfl | rfl <;>
      exact ⟨rfl, encodeR_of_match h (by decide) (by decide) (by decide)⟩
  · simp only [opcodeRowsOpImm, List.mem_cons, List.not_mem_nil, or_false] at himm
    rcases himm with rfl | rfl | rfl | rfl | rfl | rfl | rfl | rfl | rfl
    · exact ⟨rfl, encodeI_of_match h (by decide) (by decide)⟩
    · exact ⟨rfl, encodeI_of_match h (by decide) (by decide)⟩
    · exact ⟨rfl, encodeI_of_match h (by decide) (by decide)⟩
    · exact ⟨rfl, encodeI_of_match h (by decide) (by decide)⟩
    · exact ⟨rfl, encodeI_of_match h (by decide) (by decide)⟩
    · exact ⟨rfl, encodeI_of_match h (by decide) (by decide)⟩
    · exact ⟨rfl, encodeR_of_match h (by decide) (by decide) (by decide)⟩
    · exact ⟨rfl, encodeR_of_match h (by decide) (by decide) (by decide)⟩
    · exact ⟨rfl, encodeR_of_match h (by decide) (by decide) (by decide)⟩
  · simp only [opcodeRowsRest, List.mem_cons, List.not_mem_nil, or_false] at hrest
    rcases hrest with rfl | rfl | rfl | rfl | rfl | rfl
    · exact ⟨rfl, encodeI_of_match h (by decide) (by decide)⟩
    · exact ⟨rfl, encodeS_of_match h (by decide) (by decide)⟩
    · exact ⟨evenOffset13_rawImmB w, encodeB_of_match h (by decide) (by decide)⟩
    · exact ⟨evenOffset13_rawImmB w, encodeB_of_match h (by decide) (by decide)⟩
    · exact ⟨evenOffset21_rawImmJ w, encodeJ_of_match h (by decide)⟩
    · exact ⟨rfl, encodeI_of_match h (by decide) (by decide)⟩

end

/-- Every row of the table, as the statements about single instructions write it. -/
theorem encodedAs_of_mem {row : OpcodeRow} (hrow : row ∈ opcodeTable) :
    Claims.encodedAs row.mask row.pattern (rowInstr row.mnemonic) := fun _ h =>
  decode_eq_instr_iff.2 (encode_rowInstr_of_match hrow h)

/-- The word of an instruction matches the row of its mnemonic. -/
theorem exists_row_of_encode (i : Instr) :
    ∃ row ∈ opcodeTable, row.mnemonic = i.mnemonic ∧ encode i &&& row.mask = row.pattern := by
  cases i <;>
    simp [opcodeTable, opcodeRowsOp, opcodeRowsOpImm, opcodeRowsRest, Instr.mnemonic, encode, and_opcode_functs,
      and_opcode_funct3, and_opcode] <;>
    rfl

theorem row_eq_of_mnemonic_eq :
    ∀ row ∈ opcodeTable, ∀ row' ∈ opcodeTable, row.mnemonic = row'.mnemonic → row = row' := by decide

theorem match_iff_decode {row : OpcodeRow} (hrow : row ∈ opcodeTable) (w : Word) :
    w &&& row.mask = row.pattern ↔ ∃ i, decode w = .instr i ∧ i.mnemonic = row.mnemonic := by
  refine ⟨fun h => ⟨_, encodedAs_of_mem hrow w h, mnemonic_rowInstr _ w⟩, ?_⟩
  rintro ⟨i, hd, hi⟩
  obtain ⟨-, rfl⟩ := decode_eq_instr_iff.1 hd
  obtain ⟨row', hrow', hm, hmatch⟩ := exists_row_of_encode i
  exact row_eq_of_mnemonic_eq row' hrow' row hrow (hm.trans hi) ▸ hmatch

/-- Settles O3: two rows that match name the mnemonic of the one decoded instruction, and the mnemonic names the row. -/
theorem decoderFollowsOpcodeTable : Obligations.DecoderFollowsOpcodeTable := by
  refine ⟨fun row hrow w => match_iff_decode hrow w, fun row hrow row' hrow' w h h' => ?_, fun w hnone => ?_⟩
  · refine row_eq_of_mnemonic_eq row hrow row' hrow' ?_
    have hd := encodedAs_of_mem hrow w h
    have hd' := encodedAs_of_mem hrow' w h'
    simpa using congrArg Instr.mnemonic (Decoded.instr.inj (hd.symm.trans hd'))
  · cases hd : decode w with
    | invalid why => exact ⟨why, rfl⟩
    | instr i =>
      obtain ⟨-, rfl⟩ := decode_eq_instr_iff.1 hd
      obtain ⟨row, hrow, -, hmatch⟩ := exists_row_of_encode i
      exact absurd hmatch (hnone row hrow)

/-! ## Words outside the subset (R64, R80, R87, R360) -/

/-- The major opcodes of the admitted instructions. -/
def admittedOpcodes : List (BitVec 7) :=
  [0b0110011#7, 0b0010011#7, 0b0000011#7, 0b0100011#7, 0b1100011#7, 0b1101111#7, 0b1100111#7]

theorem decode_of_not_admitted {w : Word} (h : fieldOpcode w ∉ admittedOpcodes) :
    decode w = .invalid .unknownOpcode := by
  simp only [admittedOpcodes, List.mem_cons, List.not_mem_nil, or_false, not_or] at h
  simp [decode, h]

/-- Every admitted opcode belongs to a 32-bit encoding and is none of LUI, AUIPC, MISC-MEM and SYSTEM. -/
theorem admittedOpcodes_inside_subset :
    ∀ op ∈ admittedOpcodes, op.extractLsb' 0 2 = 0b11#2 ∧
      op ∉ [0b0110111#7, 0b0010111#7, 0b0001111#7, 0b1110011#7] := by decide

theorem extractLsb'_fieldOpcode (w : Word) : (fieldOpcode w).extractLsb' 0 2 = w.extractLsb' 0 2 := by
  simp [fieldOpcode]

/-- Settles O5: the opcode is not an admitted one, and the reference takes the fault of an invalid word. -/
theorem wordsOutsideTheSubsetAreInvalid : Obligations.WordsOutsideTheSubsetAreInvalid := by
  intro w hout
  have hd : decode w = .invalid .unknownOpcode := by
    refine decode_of_not_admitted fun hmem => ?_
    obtain ⟨hlow, hnot⟩ := admittedOpcodes_inside_subset _ hmem
    rw [extractLsb'_fieldOpcode] at hlow
    exact hout.elim (absurd hlow) (absurd · hnot)
  refine ⟨.unknownOpcode, hd, fun l => by rw [hd]; rfl, fun s hm hr hf hw => ?_⟩
  subst hw
  rw [step_of_ready_reference hm hr]
  exact fetchAndExec_of_invalid ((fetchable_iff_accessFault_none s).1 hf) hd

end Sys2Proof.Machine
end

section
/-! Proofs for 30_encoding.md: the immediates bit by bit (R83 to R86) and words written out from the formats (R82). -/

namespace Sys2Proof.Machine

/-! ## Bits of the extended immediates (R83 to R86) -/

theorem getLsbD_rawImmI (w : Word) (i : Nat) :
    (rawImmI w).getLsbD i = (decide (i < 12) && w.getLsbD (20 + i)) := by
  simp [rawImmI, BitVec.getLsbD_extractLsb']

/-- A bit of a value sign-extended to 32 bits is the bit there, or the value's top bit. -/
theorem getLsbD_signExtend_word {n k : Nat} (x : BitVec (n + 1)) (hk : k < 32) :
    (x.signExtend 32).getLsbD k = x.getLsbD (min k n) := by
  rw [BitVec.getLsbD_signExtend, BitVec.msb_eq_getLsbD_last]
  rcases Nat.lt_or_ge n k with h | h
  · simp [hk, Nat.min_eq_right h.le, show ¬ k < n + 1 by omega]
  · simp [hk, Nat.min_eq_left h, show k < n + 1 by omega]

theorem getLsbD_immI (w : Word) {k : Nat} (hk : k < 32) :
    (immI w).getLsbD k = w.getLsbD (if k < 11 then 20 + k else 31) := by
  rw [immI, getLsbD_signExtend_word _ hk, getLsbD_rawImmI]
  have h : k < 11 ∨ 11 ≤ k := by omega
  rcases h with h | h
  all_goals simp (disch := omega) only [Nat.min_eq_left, Nat.min_eq_right, if_pos, if_neg, decide_eq_true,
    Bool.true_and]

theorem getLsbD_immS (w : Word) {k : Nat} (hk : k < 32) :
    (immS w).getLsbD k = w.getLsbD (if k < 5 then 7 + k else if k < 11 then 20 + k else 31) := by
  rw [immS, getLsbD_signExtend_word _ hk, getLsbD_rawImmS]
  have h : k < 5 ∨ (5 ≤ k ∧ k < 11) ∨ 11 ≤ k := by omega
  rcases h with h | h | h
  all_goals simp (disch := omega) only [Nat.min_eq_left, Nat.min_eq_right, if_pos, if_neg]

theorem getLsbD_immB (w : Word) {k : Nat} (hk : k < 32) :
    (immB w).getLsbD k = (decide (k ≠ 0) &&
      w.getLsbD (if k < 5 then 7 + k else if k < 11 then 20 + k else if k < 12 then 7 else 31)) := by
  rw [immB, getLsbD_signExtend_word _ hk, getLsbD_rawImmB]
  have h : k = 0 ∨ (1 ≤ k ∧ k < 5) ∨ (5 ≤ k ∧ k < 11) ∨ k = 11 ∨ 12 ≤ k := by omega
  rcases h with rfl | h | h | h | h
  · rfl
  all_goals simp (disch := omega) only [Nat.min_eq_left, Nat.min_eq_right, if_pos, if_neg, decide_eq_true,
    Bool.true_and]

theorem getLsbD_immJ (w : Word) {k : Nat} (hk : k < 32) :
    (immJ w).getLsbD k = (decide (k ≠ 0) &&
      w.getLsbD (if k < 11 then 20 + k else if k < 12 then 20 else if k < 20 then k else 31)) := by
  rw [immJ, getLsbD_signExtend_word _ hk, getLsbD_rawImmJ]
  have h : k = 0 ∨ (1 ≤ k ∧ k < 11) ∨ k = 11 ∨ (12 ≤ k ∧ k < 20) ∨ 20 ≤ k := by omega
  rcases h with rfl | h | h | h | h
  · rfl
  all_goals simp (disch := omega) only [Nat.min_eq_left, Nat.min_eq_right, if_pos, if_neg, decide_eq_true,
    Bool.true_and]

theorem getLsbD_rawShamt (w : Word) {k : Nat} (hk : k < 5) : (rawShamt w).getLsbD k = w.getLsbD (20 + k) := by
  simp [rawShamt, hk]

/-- The I field of a shift-immediate word is its funct7 and its shift amount (R94). -/
theorem rawImmI_eq_append_rawShamt (w : Word) : rawImmI w = w.extractLsb' 25 7 ++ rawShamt w :=
  (BitVec.extractLsb'_append_extractLsb'_eq_extractLsb' (x := w) (start₁ := 20) (len₁ := 5) (start₂ := 25)
    (len₂ := 7) rfl).symm

/-! ## Values of the extended immediates (R83 to R86) -/

/-- The signed value has the parity of bit 0. -/
theorem getLsbD_zero_eq_false_iff {n : Nat} {x : BitVec (n + 1)} : x.getLsbD 0 = false ↔ x.toInt % 2 = 0 := by
  have hpow : (2 ^ (n + 1) : Nat) = 2 * 2 ^ n := Nat.pow_succ'
  rw [BitVec.getLsbD, Nat.testBit_zero, decide_eq_false_iff_not, BitVec.toInt_eq_toNat_cond]
  split <;> omega

/-- The range of an immediate of `n` bits, kept by the sign extension. -/
theorem toInt_signExtend_word_bounds {n : Nat} (x : BitVec n) (hn : n ≤ 32) :
    -2 ^ (n - 1) ≤ (x.signExtend 32).toInt ∧ (x.signExtend 32).toInt < 2 ^ (n - 1) := by
  rw [BitVec.toInt_signExtend_of_le hn]
  exact ⟨BitVec.le_toInt x, BitVec.toInt_lt⟩

theorem immB_even (w : Word) : (immB w).toInt % 2 = 0 :=
  getLsbD_zero_eq_false_iff.1 (getLsbD_immB w (k := 0) (by decide))

theorem immJ_even (w : Word) : (immJ w).toInt % 2 = 0 :=
  getLsbD_zero_eq_false_iff.1 (getLsbD_immJ w (k := 0) (by decide))

/-- Settles O6: bits and ranges are those of a sign extension, and an even value stays two below an even bound. -/
theorem immediatesBitByBit : Obligations.ImmediatesBitByBit := by
  intro w
  have hI : -2048 ≤ (immI w).toInt ∧ (immI w).toInt < 2048 := toInt_signExtend_word_bounds (rawImmI w) (by decide)
  have hS : -2048 ≤ (immS w).toInt ∧ (immS w).toInt < 2048 := toInt_signExtend_word_bounds (rawImmS w) (by decide)
  have hB : -4096 ≤ (immB w).toInt ∧ (immB w).toInt < 4096 := toInt_signExtend_word_bounds (rawImmB w) (by decide)
  have hJ : -1048576 ≤ (immJ w).toInt ∧ (immJ w).toInt < 1048576 :=
    toInt_signExtend_word_bounds (rawImmJ w) (by decide)
  have hevenB := immB_even w
  have hevenJ := immJ_even w
  refine ⟨fun k hk => getLsbD_immI w hk, ?rangeI, fun k hk => getLsbD_rawShamt w hk, rawImmI_eq_append_rawShamt w,
    fun k hk => getLsbD_immS w hk, ?rangeS, fun k hk => getLsbD_immB w hk, ?rangeB,
    fun k hk => getLsbD_immJ w hk, ?rangeJ⟩
  all_goals omega

/-! ## Words written out (R82, R91) -/

/-- Settles O4: ten closed words. -/
theorem writtenWordsDecode : Obligations.WrittenWordsDecode := by
  refine ⟨?_, ?_, ?_, ?_, ?_, ?_, ?_, ?_, ?_, ?_⟩ <;> decide

end Sys2Proof.Machine
end

section
/-! Proofs for 30_encoding.md: the assembler (R95 to R97; log 16). -/

namespace Sys2Proof.Machine

/-! ## Immediates that fit (R94, R96) -/

theorem toInt_of_fitImm {n : Nat} {v : Int} {b : BitVec n} (hn : 0 < n) (h : fitImm n v = some b) : b.toInt = v := by
  unfold fitImm at h
  split at h
  next hv =>
    cases h
    exact BitVec.toInt_ofInt_eq_self hn hv.1 hv.2
  next => cases h

theorem toNat_of_fitShamt {v : Int} {b : BitVec 5} (h : fitShamt v = some b) : (b.toNat : Int) = v := by
  unfold fitShamt at h
  split at h
  next hv =>
    cases h
    simp only [BitVec.toNat_ofInt]
    omega
  next => cases h

/-! ## What one source form writes (R95 to R97) -/

section
variable {name : Mnemonic} {rd rs1 rs2 : RegIdx} {i : Instr}

theorem written_of_asmRegReg (h : asmRegReg name rd rs1 rs2 = some i) :
    i.mnemonic = name ∧ i.format = .r ∧ Claims.destination i = some rd ∧ Claims.sources i = [rs1, rs2] := by
  unfold asmRegReg at h
  split at h <;> cases h <;> exact ⟨rfl, rfl, rfl, rfl⟩

theorem written_of_asmRegImm {imm : Int} (h : asmRegImm name rd rs1 imm = some i) :
    i.mnemonic = name ∧ i.format = .i ∧ Claims.destination i = some rd ∧ Claims.sources i = [rs1] ∧
      Claims.immediateOf i = imm := by
  unfold asmRegImm at h
  split at h
  case h_7 | h_8 | h_9 =>
    obtain ⟨b, hb, rfl⟩ := Option.map_eq_some_iff.1 h
    exact ⟨rfl, rfl, rfl, rfl, toNat_of_fitShamt hb⟩
  case h_10 => cases h
  all_goals
    obtain ⟨b, hb, rfl⟩ := Option.map_eq_some_iff.1 h
    exact ⟨rfl, rfl, rfl, rfl, toInt_of_fitImm (by decide) hb⟩

theorem written_of_asmBranch {imm : BitVec 13} (h : asmBranch name rs1 rs2 imm = some i) :
    i.mnemonic = name ∧ i.format = .b ∧ Claims.sources i = [rs1, rs2] ∧ Claims.immediateOf i = imm.toInt := by
  unfold asmBranch at h
  split at h <;> cases h <;> exact ⟨rfl, rfl, rfl, rfl⟩

variable {find : String → Option Nat} {here : Nat} {label : String}

/-- A branch is assembled when its label resolves and the offset to it fits. -/
theorem assembleOp_branch (h : assembleOp find here (.branch name rs1 rs2 label) = some i) :
    ∃ target imm, find label = some target ∧ relativeImm 13 target here = some imm ∧
      asmBranch name rs1 rs2 imm = some i := by
  simp only [assembleOp] at h
  cases hl : find label with
  | none => simp [hl] at h
  | some target =>
    simp only [hl] at h
    obtain ⟨imm, himm, hi⟩ := Option.bind_eq_some_iff.1 h
    exact ⟨target, imm, rfl, himm, hi⟩

/-- A jump is assembled when its label resolves and the offset to it fits. -/
theorem assembleOp_jal (h : assembleOp find here (.jal rd label) = some i) :
    ∃ target imm, find label = some target ∧ relativeImm 21 target here = some imm ∧ i = .jal rd imm := by
  simp only [assembleOp] at h
  cases hl : find label with
  | none => simp [hl] at h
  | some target =>
    simp only [hl] at h
    obtain ⟨imm, himm, hi⟩ := Option.map_eq_some_iff.1 h
    exact ⟨target, imm, rfl, himm, hi.symm⟩

/-- `j label` is `jal x0, label` (R97). -/
theorem assembleOp_j : assembleOp find here (.j label) = assembleOp find here (.jal 0 label) := rfl

theorem writtenAs_of_assembleOp {op : AsmOp} (h : assembleOp find here op = some i) :
    Claims.writtenAs find here op i := by
  cases op with
  | regReg name rd rs1 rs2 => exact written_of_asmRegReg h
  | regImm name rd rs1 imm => exact written_of_asmRegImm h
  | load rd imm rs1 | jalr rd imm rs1 =>
    obtain ⟨b, hb, rfl⟩ := Option.map_eq_some_iff.1 h
    exact ⟨rfl, rfl, rfl, toInt_of_fitImm (by decide) hb⟩
  | store rs2 imm rs1 =>
    obtain ⟨b, hb, rfl⟩ := Option.map_eq_some_iff.1 h
    exact ⟨rfl, rfl, toInt_of_fitImm (by decide) hb⟩
  | branch name rs1 rs2 label =>
    obtain ⟨target, b, hl, hb, hi⟩ := assembleOp_branch h
    obtain ⟨hname, hformat, hsources, himm⟩ := written_of_asmBranch hi
    exact ⟨hname, hformat, hsources, target, hl, himm.trans (toInt_of_fitImm (by decide) hb)⟩
  | jal rd label =>
    obtain ⟨target, b, hl, hb, rfl⟩ := assembleOp_jal h
    exact ⟨rfl, rfl, target, hl, toInt_of_fitImm (by decide) hb⟩
  | j label =>
    obtain ⟨target, b, hl, hb, rfl⟩ := assembleOp_jal (assembleOp_j ▸ h)
    exact ⟨rfl, rfl, target, hl, toInt_of_fitImm (by decide) hb⟩

end

/-- Only branches and jumps can be ill formed, by an odd offset (R85, R86). -/
theorem wellFormed_of_even_immediate {i : Instr}
    (h : i.format = .b ∨ i.format = .j → Claims.immediateOf i % 2 = 0) :
    i.wellFormed = true := by
  cases i with
  | beq rs1 rs2 imm | bne rs1 rs2 imm =>
    simpa [Instr.wellFormed, evenOffset13] using getLsbD_zero_eq_false_iff.2 (h (.inl rfl))
  | jal rd imm => simpa [Instr.wellFormed, evenOffset21] using getLsbD_zero_eq_false_iff.2 (h (.inr rfl))
  | _ => rfl

/-- Where instructions and labels stand at even offsets, every offset `L - p` is even. -/
theorem wellFormed_of_writtenAs {find : String → Option Nat} {here : Nat} {op : AsmOp} {i : Instr}
    (hfind : ∀ label target, find label = some target → target % 2 = 0) (hhere : here % 2 = 0)
    (h : Claims.writtenAs find here op i) : i.wellFormed = true := by
  refine wellFormed_of_even_immediate fun hf => ?_
  cases op with
  | regReg name rd rs1 rs2 =>
    obtain ⟨-, hr, -⟩ := h
    simp [hr] at hf
  | regImm name rd rs1 imm =>
    obtain ⟨-, hi, -⟩ := h
    simp [hi] at hf
  | load rd imm rs1 | store rs2 imm rs1 | jalr rd imm rs1 =>
    obtain ⟨hm, -⟩ := h
    simp [Instr.format, hm, Mnemonic.format] at hf
  | branch name rs1 rs2 label =>
    obtain ⟨-, -, -, target, hl, himm⟩ := h
    have := hfind label target hl
    omega
  | jal rd label | j label =>
    obtain ⟨-, -, target, hl, himm⟩ := h
    have := hfind label target hl
    omega

/-! ## Label offsets (R96; log 16) -/

/-- A label that resolves stands on a line, at the offset behind the instructions of the lines before. -/
theorem exists_line_of_labelOffset {lines : List AsmLine} {at4 offset : Nat} {label : String}
    (h : labelOffset lines at4 label = some offset) :
    ∃ (k : Nat) (line : AsmLine), lines[k]? = some line ∧ label ∈ line.labels ∧
      offset = at4 + 4 * ((lines.take k).filterMap AsmLine.op).length := by
  induction lines generalizing at4 with
  | nil => cases h
  | cons line rest ih =>
    unfold labelOffset at h
    split at h
    next hmem =>
      cases h
      exact ⟨0, line, rfl, List.contains_iff_mem.1 hmem, rfl⟩
    next =>
      obtain ⟨k, found, hk, hlabel, rfl⟩ := ih h
      refine ⟨k + 1, found, hk, hlabel, ?_⟩
      cases hop : line.op with
      | none => simp [hop]
      | some op => simp [hop]; omega

theorem labelOffset_even {lines : List AsmLine} {label : String} {offset : Nat}
    (h : labelOffset lines 0 label = some offset) : offset % 2 = 0 := by
  obtain ⟨k, line, -, -, rfl⟩ := exists_line_of_labelOffset h
  omega

/-! ## The assembled text (R96) -/

/-- The two ways the lines from one on can be accepted: it has no instruction, or its instruction stands in front. -/
theorem assembleFrom_cons_ok {find : String → Option Nat} {k here : Nat} {line : AsmLine} {rest : List AsmLine}
    {bytes : List Byte} (h : assembleFrom find k here (line :: rest) = .ok bytes) :
    (line.op = none ∧ assembleFrom find (k + 1) here rest = .ok bytes) ∨
    (∃ op i tail, line.op = some op ∧ assembleOp find here op = some i ∧
      assembleFrom find (k + 1) (here + 4) rest = .ok tail ∧ bytes = bytesOfWord (encode i) ++ tail) := by
  unfold assembleFrom at h
  cases hop : line.op with
  | none => exact .inl ⟨rfl, by simpa only [hop] using h⟩
  | some op =>
    simp only [hop] at h
    cases hi : assembleOp find here op with
    | none => simp [hi] at h
    | some i =>
      simp only [hi] at h
      cases ht : assembleFrom find (k + 1) (here + 4) rest with
      | syntaxError n => simp [ht] at h
      | ok tail =>
        simp only [ht, AsmResult.ok.injEq] at h
        exact .inr ⟨op, i, tail, rfl, hi, rfl, h.symm⟩

/-- The instructions of accepted lines, in order: the `n`-th is assembled `4 * n` bytes behind the first. -/
theorem exists_instrs_of_assembleFrom {find : String → Option Nat} {k here : Nat} {lines : List AsmLine}
    {bytes : List Byte} (h : assembleFrom find k here lines = .ok bytes) :
    ∃ is : List Instr, is.length = (lines.filterMap AsmLine.op).length ∧
      bytes = is.flatMap (fun i => bytesOfWord (encode i)) ∧
      ∀ (n : Nat) (op : AsmOp) (i : Instr), (lines.filterMap AsmLine.op)[n]? = some op → is[n]? = some i →
        assembleOp find (here + 4 * n) op = some i := by
  induction lines generalizing k here bytes with
  | nil =>
    cases h
    exact ⟨[], rfl, rfl, fun n op i hop => by simp at hop⟩
  | cons line rest ih =>
    obtain ⟨hnone, hrest⟩ | ⟨op, i, tail, hsome, hi, hrest, rfl⟩ := assembleFrom_cons_ok h
    · rw [List.filterMap_cons_none hnone]
      exact ih hrest
    · obtain ⟨is, hlen, rfl, hnth⟩ := ih hrest
      rw [List.filterMap_cons_some hsome]
      refine ⟨i :: is, by simp [hlen], rfl, fun n op' i' hop' hi' => ?_⟩
      cases n with
      | zero =>
        cases hop'
        cases hi'
        exact hi
      | succ n =>
        rw [show here + 4 * (n + 1) = here + 4 + 4 * n by omega]
        exact hnth n op' i' hop' hi'

/-- Settles O53: the assembled instructions one by one, and their offsets even because every label's is. -/
theorem assembledBytesAreEncodedInstructions : Obligations.AssembledBytesAreEncodedInstructions := by
  intro lines bytes h
  have hfrom : assembleFrom (labelOffset lines 0) 0 0 lines = .ok bytes := h
  obtain ⟨is, hlen, hbytes, hnth⟩ := exists_instrs_of_assembleFrom hfrom
  simp only [Nat.zero_add] at hnth
  refine ⟨is, hlen, fun i hi => ?_, hbytes, fun n op i hop hi => ?_, fun label offset hl => ?_⟩
  · obtain ⟨n, hn, rfl⟩ := List.getElem_of_mem hi
    have hop := List.getElem?_eq_getElem (hlen ▸ hn)
    have hwritten := writtenAs_of_assembleOp (hnth n _ _ hop (List.getElem?_eq_getElem hn))
    exact wellFormed_of_writtenAs (fun _ _ => labelOffset_even) (by omega) hwritten
  · have hi := hnth n op i hop hi
    exact ⟨hi, writtenAs_of_assembleOp hi⟩
  · simpa using exists_line_of_labelOffset hl

end Sys2Proof.Machine
end

section
/-! Facts for 40_alu_register.md: what an instruction that writes a result does to the state, and the values of the
ALU's operations as numbers and bits. -/

namespace Sys2Proof.Machine

/-! ## Completing with a result (00_scope.md R10) -/

/-- An instruction that answers one register write and one next address has changed nothing else. -/
theorem computes_of_exec_eq {i : Instr} {s : State} {rd : RegIdx} {v next : Word}
    (h : exec i s = .next (setPc (writeReg s rd v) next)) : Claims.computes i s rd v next := by
  refine ⟨_, h, fun r => ?_, rfl, fun _ => rfl, rfl⟩
  rw [readReg_setPc, readReg_writeReg]
  by_cases hr : r = rd
  · simp [hr]
  · simp [hr]

theorem computes_of_exec_eq_writeResult {i : Instr} {s : State} {rd : RegIdx} {v : Word}
    (h : exec i s = writeResult rd v s) : Claims.computes i s rd v (s.pc + 4) :=
  computes_of_exec_eq h

/-! ## Values modulo 2^32 (R8) -/

theorem wraps_iff_eq_ofInt {v : Word} {n : Int} : Claims.wraps v n ↔ v = BitVec.ofInt 32 n := by
  rw [Claims.wraps, ← BitVec.toNat_inj, BitVec.toNat_ofInt]
  omega

theorem wraps_add (a b : Word) : Claims.wraps (a + b) (a.toNat + b.toNat) := by
  simp [wraps_iff_eq_ofInt, BitVec.ofInt_add]

theorem wraps_sub (a b : Word) : Claims.wraps (a - b) (a.toNat - b.toNat) := by
  simp [wraps_iff_eq_ofInt, Int.sub_eq_add_neg, BitVec.ofInt_add, BitVec.ofInt_neg, BitVec.sub_eq_add_neg]

/-! ## Shifts (R122, R126, R127) -/

/-- Bits 4:0 of the register are its value modulo 32. -/
theorem regShiftAmount_eq_mod (s : State) (r : RegIdx) : regShiftAmount s r = (readReg s r).toNat % 32 := by
  simp [regShiftAmount, BitVec.extractLsb'_toNat]

theorem toNat_shiftLeft_word (a : Word) (n : Nat) : (a <<< n).toNat = a.toNat * 2 ^ n % 2 ^ 32 := by
  rw [BitVec.toNat_shiftLeft, Nat.shiftLeft_eq]

theorem toNat_shiftRight_word (a : Word) (n : Nat) : (a >>> n).toNat = a.toNat / 2 ^ n := by
  rw [BitVec.toNat_ushiftRight, Nat.shiftRight_eq_div_pow]

/-- The arithmetic shift rounds down, as the division of integers by a positive number does. -/
theorem toInt_sshiftRight_word (a : Word) (n : Nat) : (a.sshiftRight n).toInt = a.toInt / 2 ^ n := by
  rw [BitVec.toInt_sshiftRight, Int.shiftRight_eq_div_pow, Nat.cast_pow, Nat.cast_ofNat]

/-! ## Comparisons (R123, R124) -/

theorem conditionWord_signedLess (a b : Word) :
    conditionWord (signedLess a b) = if a.toInt < b.toInt then 1 else 0 := by
  simp [conditionWord, signedLess]

theorem conditionWord_unsignedLess (a b : Word) :
    conditionWord (unsignedLess a b) = if a.toNat < b.toNat then 1 else 0 := by
  simp [conditionWord, unsignedLess]

end Sys2Proof.Machine
end

section
/-! Proofs for 40_alu_register.md: the ten register-register instructions (R120 to R129). -/

namespace Sys2Proof.Machine

section
variable (rd rs1 rs2 : RegIdx) (s : State)

theorem computes_add : Claims.computes (.add rd rs1 rs2) s rd (readReg s rs1 + readReg s rs2) (s.pc + 4) :=
  computes_of_exec_eq_writeResult rfl

theorem computes_sub : Claims.computes (.sub rd rs1 rs2) s rd (readReg s rs1 - readReg s rs2) (s.pc + 4) :=
  computes_of_exec_eq_writeResult rfl

theorem computes_sll :
    Claims.computes (.sll rd rs1 rs2) s rd (readReg s rs1 <<< ((readReg s rs2).toNat % 32)) (s.pc + 4) :=
  computes_of_exec_eq_writeResult (by rw [← regShiftAmount_eq_mod]; rfl)

theorem computes_srl :
    Claims.computes (.srl rd rs1 rs2) s rd (readReg s rs1 >>> ((readReg s rs2).toNat % 32)) (s.pc + 4) :=
  computes_of_exec_eq_writeResult (by rw [← regShiftAmount_eq_mod]; rfl)

theorem computes_sra :
    Claims.computes (.sra rd rs1 rs2) s rd ((readReg s rs1).sshiftRight ((readReg s rs2).toNat % 32)) (s.pc + 4) :=
  computes_of_exec_eq_writeResult (by rw [← regShiftAmount_eq_mod]; rfl)

theorem computes_slt :
    Claims.computes (.slt rd rs1 rs2) s rd (if (readReg s rs1).toInt < (readReg s rs2).toInt then 1 else 0)
      (s.pc + 4) :=
  computes_of_exec_eq_writeResult (by rw [← conditionWord_signedLess]; rfl)

theorem computes_sltu :
    Claims.computes (.sltu rd rs1 rs2) s rd (if (readReg s rs1).toNat < (readReg s rs2).toNat then 1 else 0)
      (s.pc + 4) :=
  computes_of_exec_eq_writeResult (by rw [← conditionWord_unsignedLess]; rfl)

theorem computes_xor : Claims.computes (.xor rd rs1 rs2) s rd (readReg s rs1 ^^^ readReg s rs2) (s.pc + 4) :=
  computes_of_exec_eq_writeResult rfl

theorem computes_or : Claims.computes (.or rd rs1 rs2) s rd (readReg s rs1 ||| readReg s rs2) (s.pc + 4) :=
  computes_of_exec_eq_writeResult rfl

theorem computes_and : Claims.computes (.and rd rs1 rs2) s rd (readReg s rs1 &&& readReg s rs2) (s.pc + 4) :=
  computes_of_exec_eq_writeResult rfl

end

/-- Settles O7: the rows of the opcode table, and the sum and the difference as integers modulo 2^32. -/
theorem addAndSubtractRegisters : Obligations.AddAndSubtractRegisters := by
  refine ⟨encodedAs_of_mem (row := ⟨.ADD, _, _⟩) (by decide), encodedAs_of_mem (row := ⟨.SUB, _, _⟩) (by decide),
    fun rd rs1 rs2 s => ⟨?add, ?sub⟩⟩
  case add => exact ⟨_, wraps_add _ _, computes_add rd rs1 rs2 s⟩
  case sub => exact ⟨_, wraps_sub _ _, computes_sub rd rs1 rs2 s⟩

/-- Settles O8: bits 4:0 of x[rs2] are its value modulo 32, and a shift multiplies or divides by that power of 2. -/
theorem shiftRegisters : Obligations.ShiftRegisters := by
  refine ⟨encodedAs_of_mem (row := ⟨.SLL, _, _⟩) (by decide), encodedAs_of_mem (row := ⟨.SRL, _, _⟩) (by decide),
    encodedAs_of_mem (row := ⟨.SRA, _, _⟩) (by decide), fun rd rs1 rs2 s => ⟨?sll, ?srl, ?sra⟩⟩
  case sll => exact ⟨_, toNat_shiftLeft_word _ _, computes_sll rd rs1 rs2 s⟩
  case srl => exact ⟨_, toNat_shiftRight_word _ _, computes_srl rd rs1 rs2 s⟩
  case sra => exact ⟨_, toInt_sshiftRight_word _ _, computes_sra rd rs1 rs2 s⟩

/-- Settles O9: the rows of the opcode table, and the two comparisons of the values themselves. -/
theorem compareRegisters : Obligations.CompareRegisters :=
  ⟨encodedAs_of_mem (row := ⟨.SLT, _, _⟩) (by decide), encodedAs_of_mem (row := ⟨.SLTU, _, _⟩) (by decide),
    fun rd rs1 rs2 s => ⟨computes_slt rd rs1 rs2 s, computes_sltu rd rs1 rs2 s⟩⟩

/-- Settles O10: the rows of the opcode table, and the bits of the three operations on words. -/
theorem bitwiseRegisters : Obligations.BitwiseRegisters := by
  refine ⟨encodedAs_of_mem (row := ⟨.XOR, _, _⟩) (by decide), encodedAs_of_mem (row := ⟨.OR, _, _⟩) (by decide),
    encodedAs_of_mem (row := ⟨.AND, _, _⟩) (by decide), fun rd rs1 rs2 s => ⟨?xor, ?or, ?and⟩⟩
  case xor => exact ⟨_, fun _ _ => BitVec.getLsbD_xor, computes_xor rd rs1 rs2 s⟩
  case or => exact ⟨_, fun _ _ => BitVec.getLsbD_or, computes_or rd rs1 rs2 s⟩
  case and => exact ⟨_, fun _ _ => BitVec.getLsbD_and, computes_and rd rs1 rs2 s⟩

end Sys2Proof.Machine
end

section
/-! Proofs for 41_alu_immediate.md: the nine register-immediate instructions (R140 to R148). -/

namespace Sys2Proof.Machine

/-! ## The sign-extended immediate (R83) as a number and as bits -/

/-- Sign extension keeps the number modulo 2^32. -/
theorem immOperand_eq_ofInt (imm : BitVec 12) : immOperand imm = BitVec.ofInt 32 imm.toInt := rfl

theorem toInt_immOperand (imm : BitVec 12) : (immOperand imm).toInt = imm.toInt :=
  BitVec.toInt_signExtend_of_le (by decide)

/-- The immediate read as unsigned is its signed value modulo 2^32 (R142). -/
theorem toNat_immOperand (imm : BitVec 12) : ((immOperand imm).toNat : Int) = imm.toInt % 2 ^ 32 :=
  wraps_iff_eq_ofInt.2 (immOperand_eq_ofInt imm)

theorem getLsbD_immOperand (imm : BitVec 12) {k : Nat} (hk : k < 32) :
    (immOperand imm).getLsbD k = imm.getLsbD (min k 11) :=
  getLsbD_signExtend_word imm hk

theorem wraps_add_immOperand (a : Word) (imm : BitVec 12) :
    Claims.wraps (a + immOperand imm) (a.toNat + imm.toInt) := by
  simp [wraps_iff_eq_ofInt, BitVec.ofInt_add, immOperand_eq_ofInt]

theorem toNat_lt_toNat_immOperand (a : Word) (imm : BitVec 12) :
    a.toNat < (immOperand imm).toNat ↔ (a.toNat : Int) < imm.toInt % 2 ^ 32 := by
  rw [← toNat_immOperand, Int.ofNat_lt]

/-! ## The words of the shift instructions (R146, R148) -/

theorem decode_of_opImm {w : Word} (h : fieldOpcode w = 0x13#7) : decode w = decodeOpImm w := by
  simp [decode, h]

/-- A word with SLLI's funct3 and another funct7 is no instruction (R146). -/
theorem decodeOpImm_of_slli_funct7_ne {w : Word} (h3 : fieldFunct3 w = 0b001#3) (h7 : fieldFunct7 w ≠ 0#7) :
    decodeOpImm w = .invalid .unknownFunct7 := by
  simp [decodeOpImm, h3, h7]

/-- The I-immediate of a word with SRAI's funct7 is positive, with the shift amount in the bits below (R148). -/
theorem toNat_immI_of_srai_funct7 {w : Word} (h7 : fieldFunct7 w = 0b0100000#7) :
    (immI w).toNat = 0x400 + (rawShamt w).toNat := by
  have happ : rawImmI w = 0b0100000#7 ++ rawShamt w := by
    rw [rawImmI_eq_append_rawShamt, ← h7, fieldFunct7]
  have hmsb : (rawImmI w).msb = false := by rw [happ, BitVec.msb_append]; rfl
  have hnat : (rawImmI w).toNat = 0x400 + (rawShamt w).toNat := by
    rw [happ, BitVec.toNat_append, ← Nat.shiftLeft_add_eq_or_of_lt (rawShamt w).isLt]
    rfl
  rw [immI, BitVec.signExtend_eq_setWidth_of_msb_false hmsb, BitVec.toNat_setWidth_of_le (by decide), hnat]

/-! ## What each instruction writes (R140 to R148) -/

section
variable (rd rs1 : RegIdx) (imm : BitVec 12) (shamt : BitVec 5) (s : State)

theorem computes_addi : Claims.computes (.addi rd rs1 imm) s rd (readReg s rs1 + immOperand imm) (s.pc + 4) :=
  computes_of_exec_eq_writeResult rfl

theorem computes_slti :
    Claims.computes (.slti rd rs1 imm) s rd (if (readReg s rs1).toInt < imm.toInt then 1 else 0) (s.pc + 4) :=
  computes_of_exec_eq_writeResult (by rw [← toInt_immOperand, ← conditionWord_signedLess]; rfl)

theorem computes_sltiu :
    Claims.computes (.sltiu rd rs1 imm) s rd
      (if ((readReg s rs1).toNat : Int) < imm.toInt % 2 ^ 32 then 1 else 0) (s.pc + 4) :=
  computes_of_exec_eq_writeResult (by simp only [← toNat_lt_toNat_immOperand, ← conditionWord_unsignedLess]; rfl)

theorem computes_xori : Claims.computes (.xori rd rs1 imm) s rd (readReg s rs1 ^^^ immOperand imm) (s.pc + 4) :=
  computes_of_exec_eq_writeResult rfl

theorem computes_ori : Claims.computes (.ori rd rs1 imm) s rd (readReg s rs1 ||| immOperand imm) (s.pc + 4) :=
  computes_of_exec_eq_writeResult rfl

theorem computes_andi : Claims.computes (.andi rd rs1 imm) s rd (readReg s rs1 &&& immOperand imm) (s.pc + 4) :=
  computes_of_exec_eq_writeResult rfl

theorem computes_slli : Claims.computes (.slli rd rs1 shamt) s rd (readReg s rs1 <<< shamt.toNat) (s.pc + 4) :=
  computes_of_exec_eq_writeResult rfl

theorem computes_srli : Claims.computes (.srli rd rs1 shamt) s rd (readReg s rs1 >>> shamt.toNat) (s.pc + 4) :=
  computes_of_exec_eq_writeResult rfl

theorem computes_srai :
    Claims.computes (.srai rd rs1 shamt) s rd ((readReg s rs1).sshiftRight shamt.toNat) (s.pc + 4) :=
  computes_of_exec_eq_writeResult rfl

end

/-- Settles O11: the row of the opcode table, and sign extension keeping the sum modulo 2^32. -/
theorem addImmediate : Obligations.AddImmediate :=
  ⟨encodedAs_of_mem (row := ⟨.ADDI, _, _⟩) (by decide),
    fun rd rs1 imm s => ⟨_, wraps_add_immOperand _ imm, computes_addi rd rs1 imm s⟩⟩

/-- Settles O12: the rows of the opcode table, and the extended immediate read as signed and as unsigned. -/
theorem compareImmediate : Obligations.CompareImmediate :=
  ⟨encodedAs_of_mem (row := ⟨.SLTI, _, _⟩) (by decide), encodedAs_of_mem (row := ⟨.SLTIU, _, _⟩) (by decide),
    fun rd rs1 imm s => ⟨computes_slti rd rs1 imm s, computes_sltiu rd rs1 imm s⟩⟩

/-- Settles O13: the rows of the opcode table, and the bits of the three operations with those of the extended
immediate. -/
theorem bitwiseImmediate : Obligations.BitwiseImmediate := by
  refine ⟨encodedAs_of_mem (row := ⟨.XORI, _, _⟩) (by decide), encodedAs_of_mem (row := ⟨.ORI, _, _⟩) (by decide),
    encodedAs_of_mem (row := ⟨.ANDI, _, _⟩) (by decide), fun rd rs1 imm s => ⟨?xori, ?ori, ?andi⟩⟩
  case xori =>
    refine ⟨_, fun k hk => ?_, computes_xori rd rs1 imm s⟩
    rw [BitVec.getLsbD_xor, getLsbD_immOperand imm hk]
  case ori =>
    refine ⟨_, fun k hk => ?_, computes_ori rd rs1 imm s⟩
    rw [BitVec.getLsbD_or, getLsbD_immOperand imm hk]
  case andi =>
    refine ⟨_, fun k hk => ?_, computes_andi rd rs1 imm s⟩
    rw [BitVec.getLsbD_and, getLsbD_immOperand imm hk]

/-- Settles O14: the rows of the opcode table, the funct7 of SLLI and SRAI words, and a shift as multiplication or
division by a power of 2. -/
theorem shiftImmediate : Obligations.ShiftImmediate := by
  refine ⟨encodedAs_of_mem (row := ⟨.SLLI, _, _⟩) (by decide), encodedAs_of_mem (row := ⟨.SRLI, _, _⟩) (by decide),
    encodedAs_of_mem (row := ⟨.SRAI, _, _⟩) (by decide), fun w hop h3 h7 => ?invalid, fun w hw => ?operand,
    fun rd rs1 shamt s => ⟨?slli, ?srli, ?srai⟩⟩
  case invalid => exact ⟨_, (decode_of_opImm hop).trans (decodeOpImm_of_slli_funct7_ne h3 h7)⟩
  case operand =>
    obtain ⟨-, -, h7⟩ := fields_of_match_functs hw
    have himm := toNat_immI_of_srai_funct7 h7
    have hlt := (rawShamt w).isLt
    exact ⟨himm, by omega⟩
  case slli => exact ⟨_, toNat_shiftLeft_word _ _, computes_slli rd rs1 shamt s⟩
  case srli => exact ⟨_, toNat_shiftRight_word _ _, computes_srli rd rs1 shamt s⟩
  case srai => exact ⟨_, toInt_sshiftRight_word _ _, computes_srai rd rs1 shamt s⟩

end Sys2Proof.Machine
end

section
/-! Proofs for 42_load_store.md: the word load and the word store, and their two faults (R160, R161; 60_exceptions.md
R342, R344). -/

namespace Sys2Proof.Machine

/-! ## The bytes of a word in memory (20_memory.md R50 to R53) -/

/-- Bit `j` of the byte `k` places on is bit `8 * k + j` of the little-endian word. -/
theorem getLsbD_readWord (m : Memory) (a : Nat) {k j : Nat} (hk : k < 4) (hj : j < 8) :
    (readWord m a).getLsbD (8 * k + j) = (readByte m (a + k)).getLsbD j := by
  have hbyte : byteOfWord (readWord m a) k = readByte m (a + k) := by
    obtain ⟨h0, h1, h2, h3⟩ :=
      byteOfWord_wordOfBytes (readByte m a) (readByte m (a + 1)) (readByte m (a + 2)) (readByte m (a + 3))
    match k, hk with
    | 0, _ => exact h0
    | 1, _ => exact h1
    | 2, _ => exact h2
    | 3, _ => exact h3
  rw [← hbyte, getLsbD_byteOfWord, decide_eq_true hj, Bool.true_and]

theorem readByte_writeWord_inside {m : Memory} (h : m.wf = true) (a : Nat) (v : Word) {k : Nat} (hk : k < 4) :
    readByte (writeWord m a v) (a + k) = byteOfWord v k := by
  rw [readByte_writeWord h]
  match k, hk with
  | 0, _ => simp
  | 1, _ => simp
  | 2, _ => simp
  | 3, _ => simp

/-! ## The checks of an access (60_exceptions.md R342, R344, R346) -/

section
variable {i : Instr} {s access : State} {a : Word}

/-- An instruction that is a data access takes the fault of a failing check, whatever the access would do. -/
theorem faults_of_exec_eq_dataAccess {kind : FaultTag} (h : exec i s = dataAccess a s access)
    (hf : accessFault s.memSize a = kind) (hkind : kind ≠ .none) : Claims.faults i s kind a := by
  subst hf
  exact h.trans (dataAccess_of_fault hkind access)

theorem faults_alignment_of_exec_eq_dataAccess (h : exec i s = dataAccess a s access) (hmis : a.toNat % 4 ≠ 0) :
    Claims.faults i s .alignment a :=
  faults_of_exec_eq_dataAccess h ((accessFault_alignment_iff _ _).2 hmis) (by decide)

theorem faults_range_of_exec_eq_dataAccess (h : exec i s = dataAccess a s access) (haligned : a.toNat % 4 = 0)
    (hout : s.memSize ≤ a.toNat + 3) : Claims.faults i s .range a :=
  faults_of_exec_eq_dataAccess h ((accessFault_range_iff _ _).2 ⟨haligned, hout⟩) (by decide)

end

/-! ## The two instructions (R160, R161) -/

theorem wraps_effectiveAddress (s : State) (rs1 : RegIdx) (imm : BitVec 12) :
    Claims.wraps (effectiveAddress s rs1 imm) ((readReg s rs1).toNat + imm.toInt) :=
  wraps_add_immOperand _ imm

theorem exec_lw (rd rs1 : RegIdx) (imm : BitVec 12) (s : State) :
    exec (.lw rd rs1 imm) s =
      dataAccess (effectiveAddress s rs1 imm) s (writeReg s rd (loadWord s (effectiveAddress s rs1 imm))) := rfl

theorem exec_sw (rs2 rs1 : RegIdx) (imm : BitVec 12) (s : State) :
    exec (.sw rs2 rs1 imm) s =
      dataAccess (effectiveAddress s rs1 imm) s (storeWord s (effectiveAddress s rs1 imm) (readReg s rs2)) := rfl

section
variable {s : State} {rs1 : RegIdx} {imm : BitVec 12}

theorem computes_lw (rd : RegIdx) (h : accessFault s.memSize (effectiveAddress s rs1 imm) = .none) :
    Claims.computes (.lw rd rs1 imm) s rd (loadWord s (effectiveAddress s rs1 imm)) (s.pc + 4) :=
  computes_of_exec_eq ((exec_lw rd rs1 imm s).trans (dataAccess_of_ok h _))

theorem exec_sw_of_ok (rs2 : RegIdx) (h : accessFault s.memSize (effectiveAddress s rs1 imm) = .none) :
    exec (.sw rs2 rs1 imm) s =
      .next (setPc (storeWord s (effectiveAddress s rs1 imm) (readReg s rs2)) (s.pc + 4)) :=
  (exec_sw rs2 rs1 imm s).trans (dataAccess_of_ok h _)

end

/-- Settles O15: the row of the opcode table, and the outcome of the address check selects the case. -/
theorem loadWordCompletesOrFaults : Obligations.LoadWordCompletesOrFaults := by
  refine ⟨encodedAs_of_mem (row := ⟨.LW, _, _⟩) (by decide), fun rd rs1 imm s =>
    ⟨wraps_effectiveAddress s rs1 imm, fun haligned hin => ?_,
      faults_alignment_of_exec_eq_dataAccess (exec_lw rd rs1 imm s),
      faults_range_of_exec_eq_dataAccess (exec_lw rd rs1 imm s)⟩⟩
  have hok := (accessFault_none_iff s.memSize _).2 ⟨haligned, hin⟩
  exact ⟨_, fun k hk j hj => getLsbD_readWord s.dmem _ hk hj, computes_lw rd hok⟩

/-- Settles O16: the row of the opcode table, and the outcome of the address check selects the case; a store that
completes sets the four bytes of its word and no other. -/
theorem storeWordCompletesOrFaults : Obligations.StoreWordCompletesOrFaults := by
  refine ⟨encodedAs_of_mem (row := ⟨.SW, _, _⟩) (by decide), fun rs2 rs1 imm s =>
    ⟨wraps_effectiveAddress s rs1 imm, fun haligned hin => ?_,
      faults_alignment_of_exec_eq_dataAccess (exec_sw rs2 rs1 imm s),
      faults_range_of_exec_eq_dataAccess (exec_sw rs2 rs1 imm s)⟩⟩
  have hok := (accessFault_none_iff s.memSize _).2 ⟨haligned, hin⟩
  refine ⟨_, exec_sw_of_ok rs2 hok, fun _ => rfl, rfl, rfl, fun hwf => ⟨fun k hk j hj => ?inside, fun b hb => ?outside⟩⟩
  case inside =>
    rw [setPc_dmem, storeWord_dmem, readByte_writeWord_inside hwf _ _ hk, getLsbD_byteOfWord, decide_eq_true hj,
      Bool.true_and]
  case outside => exact readByte_writeWord_outside hwf _ (by omega)

end Sys2Proof.Machine
end

section
/-! Proofs for 43_control_transfer.md: the two branches and the two jumps (R170 to R173). -/

namespace Sys2Proof.Machine

/-! ## Going to an address that need not be the next one (R170 to R173) -/

theorem movesPc_of_exec_eq_branchIf {i : Instr} {s : State} {taken : Bool} {target : Word}
    (h : exec i s = branchIf taken target s) : Claims.movesPc i s (if taken then target else s.pc + 4) :=
  ⟨_, h, rfl, fun _ => rfl, fun _ => rfl, rfl⟩

theorem computes_of_exec_eq_jumpAndLink {i : Instr} {s : State} {rd : RegIdx} {target : Word}
    (h : exec i s = jumpAndLink rd target s) : Claims.computes i s rd (linkValue s) target :=
  computes_of_exec_eq h

/-! ## The addresses as numbers (R8) -/

/-- A sign-extended offset of any width is added modulo 2^32. -/
theorem wraps_add_signExtend {n : Nat} (a : Word) (imm : BitVec n) :
    Claims.wraps (a + imm.signExtend 32) (a.toNat + imm.toInt) := by
  simp [wraps_iff_eq_ofInt, BitVec.ofInt_add, BitVec.signExtend]

theorem wraps_branchTarget (pc : Word) (imm : BitVec 13) :
    Claims.wraps (branchTarget pc imm) (pc.toNat + imm.toInt) :=
  wraps_add_signExtend pc imm

theorem wraps_jumpTarget (pc : Word) (imm : BitVec 21) : Claims.wraps (jumpTarget pc imm) (pc.toNat + imm.toInt) :=
  wraps_add_signExtend pc imm

theorem wraps_linkValue (s : State) : Claims.wraps (linkValue s) (s.pc.toNat + 4) :=
  wraps_add s.pc 4

/-- The mask of R173 drops bit 0 and puts a 0 in its place. -/
theorem clearBit0_eq_shifts (t : Word) : clearBit0 t = t >>> 1 <<< 1 := by
  rw [clearBit0, BitVec.shiftLeft_ushiftRight]
  rfl

theorem toNat_clearBit0 (t : Word) : (clearBit0 t).toNat = t.toNat / 2 * 2 := by
  have hlt := t.isLt
  rw [clearBit0_eq_shifts, toNat_shiftLeft_word, toNat_shiftRight_word]
  omega

/-- Bit 0 is cleared after the sum has wrapped. -/
theorem toNat_registerTarget (s : State) (rs1 : RegIdx) (imm : BitVec 12) :
    ((registerTarget s rs1 imm).toNat : Int) = ((readReg s rs1).toNat + imm.toInt) % 2 ^ 32 / 2 * 2 := by
  have hsum : ((readReg s rs1 + immOperand imm).toNat : Int) = ((readReg s rs1).toNat + imm.toInt) % 2 ^ 32 :=
    wraps_add_immOperand (readReg s rs1) imm
  rw [registerTarget, toNat_clearBit0, ← hsum]
  norm_cast

/-! ## The four instructions (R170 to R173) -/

theorem exec_beq (rs1 rs2 : RegIdx) (imm : BitVec 13) (s : State) :
    exec (.beq rs1 rs2 imm) s = branchIf (readReg s rs1 == readReg s rs2) (branchTarget s.pc imm) s := rfl

theorem exec_bne (rs1 rs2 : RegIdx) (imm : BitVec 13) (s : State) :
    exec (.bne rs1 rs2 imm) s = branchIf (readReg s rs1 != readReg s rs2) (branchTarget s.pc imm) s := rfl

theorem exec_jal (rd : RegIdx) (imm : BitVec 21) (s : State) :
    exec (.jal rd imm) s = jumpAndLink rd (jumpTarget s.pc imm) s := rfl

theorem exec_jalr (rd rs1 : RegIdx) (imm : BitVec 12) (s : State) :
    exec (.jalr rd rs1 imm) s = jumpAndLink rd (registerTarget s rs1 imm) s := rfl

theorem movesPc_beq (rs1 rs2 : RegIdx) (imm : BitVec 13) (s : State) :
    Claims.movesPc (.beq rs1 rs2 imm) s
      (if readReg s rs1 = readReg s rs2 then branchTarget s.pc imm else s.pc + 4) := by
  simpa only [beq_iff_eq] using movesPc_of_exec_eq_branchIf (exec_beq rs1 rs2 imm s)

theorem movesPc_bne (rs1 rs2 : RegIdx) (imm : BitVec 13) (s : State) :
    Claims.movesPc (.bne rs1 rs2 imm) s
      (if readReg s rs1 = readReg s rs2 then s.pc + 4 else branchTarget s.pc imm) := by
  simpa only [bne_iff_ne, ite_not] using movesPc_of_exec_eq_branchIf (exec_bne rs1 rs2 imm s)

/-! ## The obligations, in a namespace of their own: `jumpAndLink` is also the model's operation -/

namespace ControlTransfer

/-- Settles O17: the rows of the opcode table, and one target for both branches, taken on opposite outcomes. -/
theorem branchesCompareAndMovePc : Obligations.BranchesCompareAndMovePc :=
  ⟨encodedAs_of_mem (row := ⟨.BEQ, _, _⟩) (by decide), encodedAs_of_mem (row := ⟨.BNE, _, _⟩) (by decide),
    fun rs1 rs2 imm s =>
      ⟨_, wraps_branchTarget s.pc imm, movesPc_beq rs1 rs2 imm s, movesPc_bne rs1 rs2 imm s⟩⟩

/-- Settles O18: the row of the opcode table, and the link and the target as sums modulo 2^32. -/
theorem jumpAndLink : Obligations.JumpAndLink :=
  ⟨encodedAs_of_mem (row := ⟨.JAL, _, _⟩) (by decide), fun rd imm s =>
    ⟨_, _, wraps_linkValue s, wraps_jumpTarget s.pc imm, computes_of_exec_eq_jumpAndLink (exec_jal rd imm s)⟩⟩

/-- Settles O19: the row of the opcode table, and the target read from the state before the link is written. -/
theorem jumpAndLinkRegister : Obligations.JumpAndLinkRegister :=
  ⟨encodedAs_of_mem (row := ⟨.JALR, _, _⟩) (by decide), fun rd rs1 imm s =>
    ⟨_, _, wraps_linkValue s, toNat_registerTarget s rs1 imm,
      computes_of_exec_eq_jumpAndLink (exec_jalr rd rs1 imm s)⟩⟩

end ControlTransfer

end Sys2Proof.Machine
end

section
/-! Proofs for 45_control_word.md: packing and taking apart (R191, R203), and the table under the default layout
(R200). -/

namespace Sys2Proof.Machine

/-! ## Reading one field (R191) -/

theorem extract_eq_fieldOf (cw : Nat) (f : FieldPos) : extract cw f = Claims.fieldOf cw f := extract_eq cw f

@[simp] theorem fieldOf_zero (f : FieldPos) : Claims.fieldOf 0 f = 0 := by simp [Claims.fieldOf]

theorem testBit_iff_fieldOf_eq_one (cw b : Nat) : cw.testBit b = true ↔ Claims.fieldOf cw ⟨b, 1⟩ = 1 := by
  simp [Nat.testBit_eq_decide_div_mod_eq, Claims.fieldOf]

/-! ## Adding a value to a word whose field for it is 0 (R203)

The sum of R203 fills one field after another: a value that fits, added in a field that is still 0, is read back there,
and there is no carry, so every field that shares no bit with it keeps its value. -/

section
variable {f g : FieldPos} {v w : Nat}

theorem fieldsDisjoint_iff :
    fieldsDisjoint f g = true ↔ f.position + f.width ≤ g.position ∨ g.position + g.width ≤ f.position := by
  simp [fieldsDisjoint]

theorem fieldsDisjoint_symm (h : fieldsDisjoint f g = true) : fieldsDisjoint g f = true :=
  fieldsDisjoint_iff.2 (fieldsDisjoint_iff.1 h).symm

theorem shiftLeft_add_div (v w p : Nat) : (v <<< p + w) / 2 ^ p = v + w / 2 ^ p := by
  rw [Nat.shiftLeft_eq, Nat.mul_comm, Nat.mul_add_div (Nat.two_pow_pos p)]

theorem fieldOf_shiftLeft_add_self (hfree : Claims.fieldOf w f = 0) (hv : v < 2 ^ f.width) :
    Claims.fieldOf (v <<< f.position + w) f = v := by
  unfold Claims.fieldOf at *
  rw [shiftLeft_add_div, Nat.add_mod, hfree, Nat.add_zero, Nat.mod_mod, Nat.mod_eq_of_lt hv]

/-- Above the field: the value and the free field below it together stay under `2 ^ width`, so nothing is carried. -/
theorem fieldOf_shiftLeft_add_of_above (hfree : Claims.fieldOf w f = 0) (hv : v < 2 ^ f.width)
    (hg : f.position + f.width ≤ g.position) :
    Claims.fieldOf (v <<< f.position + w) g = Claims.fieldOf w g := by
  have hsplit : 2 ^ g.position = 2 ^ f.position * 2 ^ f.width * 2 ^ (g.position - (f.position + f.width)) := by
    rw [← Nat.pow_add, ← Nat.pow_add, Nat.add_sub_of_le hg]
  have hcarry : (v + w / 2 ^ f.position) / 2 ^ f.width = w / 2 ^ f.position / 2 ^ f.width := by
    rw [Nat.add_div_of_dvd_left (Nat.dvd_of_mod_eq_zero hfree), Nat.div_eq_of_lt hv, Nat.zero_add]
  simp only [Claims.fieldOf, hsplit, ← Nat.div_div_eq_div_mul, shiftLeft_add_div, hcarry]

/-- Below the field: the value is a multiple of every power of 2 up to its position. -/
theorem fieldOf_shiftLeft_add_of_below (v w : Nat) (hg : g.position + g.width ≤ f.position) :
    Claims.fieldOf (v <<< f.position + w) g = Claims.fieldOf w g := by
  obtain ⟨k, hk⟩ := Nat.exists_eq_add_of_le' hg
  have hsplit : v <<< f.position = (v <<< k <<< g.width) <<< g.position := by
    rw [hk, ← Nat.shiftLeft_add, ← Nat.shiftLeft_add, Nat.add_comm g.width]
  unfold Claims.fieldOf
  rw [hsplit, shiftLeft_add_div, Nat.shiftLeft_eq _ g.width, Nat.mul_add_mod_self_right]

theorem fieldOf_shiftLeft_add_of_disjoint (hfree : Claims.fieldOf w f = 0) (hv : v < 2 ^ f.width)
    (hd : fieldsDisjoint f g = true) : Claims.fieldOf (v <<< f.position + w) g = Claims.fieldOf w g := by
  rcases fieldsDisjoint_iff.1 hd with h | h
  · exact fieldOf_shiftLeft_add_of_above hfree hv h
  · exact fieldOf_shiftLeft_add_of_below v w h

end

/-! ## The sum over any list of fields -/

/-- The word that holds each value at the position of its field. -/
def packedFields : List (FieldPos × Nat) → Nat
  | [] => 0
  | (f, v) :: rest => v <<< f.position + packedFields rest

/-- Every value fits its field, and no two fields share a bit. -/
def packable (es : List (FieldPos × Nat)) : Prop :=
  (∀ e ∈ es, e.2 < 2 ^ e.1.width) ∧ (es.map Prod.fst).Pairwise (fun f g => fieldsDisjoint f g = true)

theorem packable_cons {f : FieldPos} {v : Nat} {es : List (FieldPos × Nat)} :
    packable ((f, v) :: es) ↔ v < 2 ^ f.width ∧ (∀ e ∈ es, fieldsDisjoint f e.1 = true) ∧ packable es := by
  simp only [packable, List.forall_mem_cons, List.map_cons, List.pairwise_cons, List.forall_mem_map]
  tauto

/-- A field that shares no bit with those of the list reads 0. -/
theorem fieldOf_packedFields_of_disjoint {es : List (FieldPos × Nat)} (h : packable es) {g : FieldPos}
    (hg : ∀ e ∈ es, fieldsDisjoint e.1 g = true) : Claims.fieldOf (packedFields es) g = 0 := by
  induction es generalizing g with
  | nil => exact fieldOf_zero g
  | cons e es ih =>
    obtain ⟨f, v⟩ := e
    obtain ⟨hv, hf, hes⟩ := packable_cons.1 h
    obtain ⟨hfg, hesg⟩ := List.forall_mem_cons.1 hg
    have hfree := ih hes fun e he => fieldsDisjoint_symm (hf e he)
    calc Claims.fieldOf (v <<< f.position + packedFields es) g
      _ = Claims.fieldOf (packedFields es) g := fieldOf_shiftLeft_add_of_disjoint hfree hv hfg
      _ = 0 := ih hes hesg

theorem fieldOf_packedFields_of_mem {es : List (FieldPos × Nat)} (h : packable es) {e : FieldPos × Nat}
    (he : e ∈ es) : Claims.fieldOf (packedFields es) e.1 = e.2 := by
  induction es with
  | nil => cases he
  | cons d es ih =>
    obtain ⟨f, v⟩ := d
    obtain ⟨hv, hf, hes⟩ := packable_cons.1 h
    have hfree := fieldOf_packedFields_of_disjoint hes fun e he => fieldsDisjoint_symm (hf e he)
    rcases List.mem_cons.1 he with rfl | he
    · exact fieldOf_shiftLeft_add_self hfree hv
    · exact (fieldOf_shiftLeft_add_of_disjoint hfree hv (hf e he)).trans (ih hes he)

/-- Every bit of the word lies in one of the fields. -/
theorem exists_field_of_testBit_packedFields {es : List (FieldPos × Nat)} (h : packable es) {b : Nat}
    (hb : (packedFields es).testBit b = true) :
    ∃ f ∈ es.map Prod.fst, f.position ≤ b ∧ b < f.position + f.width := by
  by_contra! hnone
  have hzero : Claims.fieldOf (packedFields es) ⟨b, 1⟩ = 0 := by
    refine fieldOf_packedFields_of_disjoint h fun e he => fieldsDisjoint_iff.2 ?_
    have := hnone e.1 (List.mem_map_of_mem he)
    simp only
    omega
  rw [testBit_iff_fieldOf_eq_one, hzero] at hb
  cases hb

/-! ## The control word as such a sum (R203) -/

/-- The entries of a layout, each with its field's value. -/
def controlFields (l : CwLayout) (c : Control) : List (FieldPos × Nat) :=
  [(l.aluCtr, c.aluCtr), (l.resSrc, c.resSrc), (l.immSrc, c.immSrc), (l.pcSrc, c.pcSrc), (l.aluSrc, c.aluSrc),
   (l.brWr, c.brWr), (l.memWr, c.memWr)]

theorem map_fst_controlFields (l : CwLayout) (c : Control) : (controlFields l c).map Prod.fst = layoutEntries l := rfl

theorem pack_eq_packedFields (l : CwLayout) (c : Control) : pack l c = packedFields (controlFields l c) := by
  simp only [pack, packedFields, controlFields]
  omega

/-- The values of an instruction's fields fit every admissible layout (R193 to R199). -/
theorem packable_controlFields {l : CwLayout} (h : layoutAdmissible l = true) (i : Instr) :
    packable (controlFields l (decodeControl i)) := by
  refine ⟨?_, disjoint_of_admissible h⟩
  have fits {v least width : Nat} (hv : v < 2 ^ least) (hw : least ≤ width) : v < 2 ^ width :=
    hv.trans_le (Nat.pow_le_pow_right (by decide) hw)
  obtain ⟨vAlu, vRes, vImm, vPc, vSrc, vBr, vMem⟩ := Laws.ControlFits.every i
  obtain ⟨wAlu, wRes, wImm, wPc, wSrc, wBr, wMem⟩ := widths_of_admissible h
  simp only [controlFields, List.forall_mem_cons]
  exact ⟨fits vAlu wAlu, fits vRes wRes, fits vImm wImm, fits vPc wPc, fits vSrc wSrc, fits vBr wBr, fits vMem wMem,
    List.forall_mem_nil _⟩

theorem fieldOf_pack_of_mem {l : CwLayout} (h : layoutAdmissible l = true) {i : Instr} {e : FieldPos × Nat}
    (he : e ∈ controlFields l (decodeControl i)) : Claims.fieldOf (pack l (decodeControl i)) e.1 = e.2 := by
  rw [pack_eq_packedFields]
  exact fieldOf_packedFields_of_mem (packable_controlFields h i) he

/-- Settles O38: an instruction's values fit and the fields share no bit, so the word is read back field by field and
has no bit outside the fields. -/
theorem controlWordRoundTrip : Obligations.ControlWordRoundTrip := by
  intro l h i
  have hread := fun e (he : e ∈ controlFields l (decodeControl i)) => fieldOf_pack_of_mem h he
  simp only [controlFields, List.forall_mem_cons] at hread
  obtain ⟨hAlu, hRes, hImm, hPc, hSrc, hBr, hMem, -⟩ := hread
  refine ⟨hBr, hMem, hSrc, hRes, hImm, hPc, hAlu, fun b hb => ?_⟩
  rw [pack_eq_packedFields] at hb
  exact exists_field_of_testBit_packedFields (packable_controlFields h i) hb

/-- Taking the packed word apart gives back the instruction's control values (R203). -/
theorem unpack_pack_of_admissible {l : CwLayout} (h : layoutAdmissible l = true) (i : Instr) :
    unpack l (pack l (decodeControl i)) = decodeControl i := by
  obtain ⟨hBr, hMem, hSrc, hRes, hImm, hPc, hAlu, -⟩ := controlWordRoundTrip l h i
  simp only [unpack, extract_eq_fieldOf, hBr, hMem, hSrc, hRes, hImm, hPc, hAlu]

/-- Settles O37: the table row by row, and the zero word of the invalid instruction. -/
theorem controlTableUnderDefaultLayout : Obligations.ControlTableUnderDefaultLayout := by
  refine ⟨fun i => ?_, fun l _ => ⟨rfl, unpack_zero l⟩⟩
  cases i <;> simp [controlWord, decodeControl, Control.aluOp, Control.zero, pack, CwLayout.default, Instr.mnemonic,
    Claims.defaultWord]

end Sys2Proof.Machine
end

section
/-! Facts for 45_control_word.md: a block whose control words are packed by another layout (R203). Everything the tick
reads of a control word goes through its field values, so each value of the tick is the same in both packings. -/

namespace Sys2Proof.Machine

/-! ## Repacking -/

/-- A layout, and the control words in flight as that layout packs them; with them the status register, on which no
claim rests, and the count of the free values drawn for it (log 3). -/
structure Packing where
  layout      : CwLayout
  idexCw      : Nat
  exmemCw     : Nat
  memwbCw     : Nat
  status      : Word
  statusDraws : Nat

/-- The state in another packing. -/
def State.repack (s : State) (p : Packing) : State :=
  { s with
    layout := p.layout
    status := p.status
    statusDraws := p.statusDraws
    idex := { s.idex with cw := p.idexCw }
    exmem := { s.exmem with cw := p.exmemCw }
    memwb := { s.memwb with cw := p.memwbCw } }

/-- Both layouts are admissible, and the packing holds the field values that the state's own control words hold. -/
structure Repacks (s : State) (p : Packing) : Prop where
  own   : layoutAdmissible s.layout = true
  other : layoutAdmissible p.layout = true
  idex  : unpack p.layout p.idexCw = ctl s s.idex.cw
  exmem : unpack p.layout p.exmemCw = ctl s s.exmem.cw
  memwb : unpack p.layout p.memwbCw = ctl s s.memwb.cw

theorem sameButLayout_iff {s t : State} : Claims.sameButLayout s t ↔ ∃ p, t = s.repack p ∧ Repacks s p := by
  constructor
  · rintro ⟨hown, hother, heq, hidex, hexmem, hmemwb⟩
    exact ⟨⟨t.layout, t.idex.cw, t.exmem.cw, t.memwb.cw, t.status, t.statusDraws⟩, heq,
      hown, hother, hidex, hexmem, hmemwb⟩
  · rintro ⟨p, rfl, h⟩
    exact ⟨h.own, h.other, rfl, h.idex, h.exmem, h.memwb⟩

section
variable (s : State) (p : Packing)

/-! ## What reads no control word is the same by unfolding alone -/

@[simp] theorem repack_regs : (s.repack p).regs = s.regs := rfl
@[simp] theorem repack_pc : (s.repack p).pc = s.pc := rfl
@[simp] theorem repack_dmem : (s.repack p).dmem = s.dmem := rfl
@[simp] theorem repack_ifid : (s.repack p).ifid = s.ifid := rfl
@[simp] theorem repack_idex : (s.repack p).idex = { s.idex with cw := p.idexCw } := rfl
@[simp] theorem repack_exmem : (s.repack p).exmem = { s.exmem with cw := p.exmemCw } := rfl
@[simp] theorem repack_memwb : (s.repack p).memwb = { s.memwb with cw := p.memwbCw } := rfl
@[simp] theorem repack_delay : (s.repack p).delay = s.delay := rfl
@[simp] theorem repack_memSize : (s.repack p).memSize = s.memSize := rfl

@[simp] theorem readReg_repack (r : RegIdx) : readReg (s.repack p) r = readReg s r := rfl
@[simp] theorem loadWord_repack (a : Word) : loadWord (s.repack p) a = loadWord s a := rfl
@[simp] theorem effStalls_repack : effStalls (s.repack p) = effStalls s := rfl
@[simp] theorem effFlushes_repack : effFlushes (s.repack p) = effFlushes s := rfl
@[simp] theorem effForwarding_repack : effForwarding (s.repack p) = effForwarding s := rfl
@[simp] theorem haltTick_repack : haltTick (s.repack p) = haltTick s := rfl
@[simp] theorem idOk_repack : idOk (s.repack p) = idOk s := rfl
@[simp] theorem idDecoded_repack : idDecoded (s.repack p) = idDecoded s := rfl
@[simp] theorem idFormatIn_repack (f : Format → Bool) : idFormatIn (s.repack p) f = idFormatIn s f := rfl
@[simp] theorem usesRs1_repack : usesRs1 (s.repack p) = usesRs1 s := rfl
@[simp] theorem usesRs2_repack : usesRs2 (s.repack p) = usesRs2 s := rfl
@[simp] theorem idFault_repack : idFault (s.repack p) = idFault s := rfl
@[simp] theorem idFaultInfo_repack : idFaultInfo (s.repack p) = idFaultInfo s := rfl
@[simp] theorem exValid_repack : exValid (s.repack p) = exValid s := rfl
@[simp] theorem pcBranch_repack : pcBranch (s.repack p) = pcBranch s := rfl
@[simp] theorem pcPlus4_repack : pcPlus4 (s.repack p) = pcPlus4 s := rfl
@[simp] theorem ifidIn_repack : ifidIn (s.repack p) = ifidIn s := rfl

end

section
variable {s : State} {p : Packing} (h : Repacks s p)
include h

/-! ## The control words in flight -/

@[simp] theorem ctl_repack_idexCw : ctl (s.repack p) p.idexCw = ctl s s.idex.cw := h.idex
@[simp] theorem ctl_repack_exmemCw : ctl (s.repack p) p.exmemCw = ctl s s.exmem.cw := h.exmem
@[simp] theorem ctl_repack_memwbCw : ctl (s.repack p) p.memwbCw = ctl s s.memwb.cw := h.memwb
@[simp] theorem exCtl_repack : exCtl (s.repack p) = exCtl s := h.idex

/-- The word ID makes has the same field values in both layouts: the only place where a word is packed (R214). -/
@[simp] theorem ctl_cwId_repack : ctl (s.repack p) (cwId (s.repack p)) = ctl s (cwId s) := by
  have hcw (d : Decoded) : unpack p.layout (controlWord p.layout d) = unpack s.layout (controlWord s.layout d) := by
    cases d with
    | instr i => exact (unpack_pack_of_admissible h.other i).trans (unpack_pack_of_admissible h.own i).symm
    | invalid w => exact (unpack_zero p.layout).trans (unpack_zero s.layout).symm
  unfold cwId
  rw [idOk_repack, idDecoded_repack]
  cases idOk s with
  | false => exact (ctl_zero (s.repack p)).trans (ctl_zero s).symm
  | true => exact hcw (idDecoded s)

/-! ## WB (R213) -/

@[simp] theorem wbResult_repack : wbResult (s.repack p) = wbResult s := by simp [wbResult, h]
@[simp] theorem wbEn_repack : wbEn (s.repack p) = wbEn s := by simp [wbEn, h]
@[simp] theorem regsNext_repack : regsNext (s.repack p) = regsNext s := by simp [regsNext, writeReg, h]

/-! ## MEM (R219) -/

@[simp] theorem memIsLoad_repack : memIsLoad (s.repack p) = memIsLoad s := by simp [memIsLoad, h]
@[simp] theorem memIsStore_repack : memIsStore (s.repack p) = memIsStore s := by simp [memIsStore, h]
@[simp] theorem memActive_repack : memActive (s.repack p) = memActive s := by simp [memActive, h]
@[simp] theorem memFault_repack : memFault (s.repack p) = memFault s := by simp [memFault, h]
@[simp] theorem memFaultInfo_repack : memFaultInfo (s.repack p) = memFaultInfo s := by simp [memFaultInfo, h]
@[simp] theorem memData_repack : memData (s.repack p) = memData s := by simp [memData, h]
@[simp] theorem memStores_repack : memStores (s.repack p) = memStores s := by simp [memStores, h]
@[simp] theorem dmemNext_repack : dmemNext (s.repack p) = dmemNext s := by simp [dmemNext, h]

/-! ## Hazards and forwarding (47_hazard_forwarding.md R262 to R273) -/

@[simp] theorem hazardMatch_repack_idex (valid : Bool) (rd : RegIdx) :
    hazardMatch (s.repack p) valid p.idexCw rd = hazardMatch s valid s.idex.cw rd := by simp [hazardMatch, h]

@[simp] theorem hazardMatch_repack_exmem (valid : Bool) (rd : RegIdx) :
    hazardMatch (s.repack p) valid p.exmemCw rd = hazardMatch s valid s.exmem.cw rd := by simp [hazardMatch, h]

@[simp] theorem stall_repack : stall (s.repack p) = stall s := by simp [stall, needStall, matchIDEX, matchEXMEM, h]

@[simp] theorem useA_repack : useA (s.repack p) = useA s := by simp [useA, h]
@[simp] theorem useB_repack : useB (s.repack p) = useB s := by simp [useB, h]
@[simp] theorem useM_repack : useM (s.repack p) = useM s := by simp [useM, h]

@[simp] theorem selector_repack (use : Bool) (r : RegIdx) : selector (s.repack p) use r = selector s use r := by
  simp [selector, h]

@[simp] theorem controlForwardA_repack : controlForwardA (s.repack p) = controlForwardA s := by
  simp [controlForwardA, h]
@[simp] theorem controlForwardB_repack : controlForwardB (s.repack p) = controlForwardB s := by
  simp [controlForwardB, h]
@[simp] theorem controlForwardM_repack : controlForwardM (s.repack p) = controlForwardM s := by
  simp [controlForwardM, h]

@[simp] theorem forwardValue_repack (c : Selector) : forwardValue (s.repack p) c = forwardValue s c := by
  cases c <;> simp [forwardValue, fwdMem, h]

@[simp] theorem forwardMux_repack (c : Selector) (operand : Word) :
    forwardMux (s.repack p) c operand = forwardMux s c operand := by
  simp [forwardMux, h]

@[simp] theorem srcA_repack : srcA (s.repack p) = srcA s := by simp [srcA, h]
@[simp] theorem regB_repack : regB (s.repack p) = regB s := by simp [regB, h]
@[simp] theorem writeData_repack : writeData (s.repack p) = writeData s := by simp [writeData, h]

/-! ## EX (R216, R217) -/

@[simp] theorem srcB_repack : srcB (s.repack p) = srcB s := by simp [srcB, h]
@[simp] theorem aluResult_repack : aluResult (s.repack p) = aluResult s := by simp [aluResult, h]
@[simp] theorem aluZero_repack : aluZero (s.repack p) = aluZero s := by simp [aluZero, h]
@[simp] theorem branchTaken_repack : branchTaken (s.repack p) = branchTaken s := by simp [branchTaken, h]
@[simp] theorem pcTarget_repack : pcTarget (s.repack p) = pcTarget s := by simp [pcTarget, h]
@[simp] theorem flush_repack : flush (s.repack p) = flush s := by simp [flush, h]

/-! ## ID and IF (R214, R223, R224) -/

@[simp] theorem rfRead_repack (r : RegIdx) : rfRead (s.repack p) r = rfRead s r := by simp [rfRead, h]
@[simp] theorem immExt_repack : immExt (s.repack p) = immExt s := by simp [immExt, h]
@[simp] theorem pcNext_repack : pcNext (s.repack p) = pcNext s := by simp [pcNext, h]
@[simp] theorem ifidNext_repack : ifidNext (s.repack p) = ifidNext s := by simp [ifidNext, h]

/-! ## What the edge hands on (R218, R220, R225) -/

theorem memwbIn_repack : memwbIn (s.repack p) = { memwbIn s with cw := p.exmemCw } := by simp [memwbIn, h]

theorem exmemIn_repack : exmemIn (s.repack p) = { exmemIn s with cw := p.idexCw } := by simp [exmemIn, h]

theorem idexIn_repack : idexIn (s.repack p) = { idexIn s with cw := cwId (s.repack p) } := by simp [idexIn, h]

theorem idexNext_repack : idexNext (s.repack p) = { idexNext s with cw := (idexNext (s.repack p)).cw } := by
  unfold idexNext
  rw [flush_repack h, stall_repack h]
  cases flush s || stall s with
  | true => rfl
  | false => exact idexIn_repack h

theorem unpack_idexNext_repack : unpack p.layout (idexNext (s.repack p)).cw = ctl s (idexNext s).cw := by
  unfold idexNext
  rw [flush_repack h, stall_repack h]
  cases flush s || stall s with
  | true => exact (unpack_zero p.layout).trans (ctl_zero s).symm
  | false => exact ctl_cwId_repack h

end

/-! ## A tick keeps the relation -/

/-- The packing after a clock edge: the words move on with their slots. -/
def Packing.afterEdge (p : Packing) (s : State) : Packing where
  layout      := p.layout
  idexCw      := (idexNext (s.repack p)).cw
  exmemCw     := p.idexCw
  memwbCw     := p.exmemCw
  status      := Config.freeStatus p.statusDraws
  statusDraws := p.statusDraws + 1

section
variable {s : State} {p : Packing} (h : Repacks s p)
include h

theorem Repacks.afterEdge : Repacks (clockEdge s) (p.afterEdge s) :=
  ⟨h.own, h.other, unpack_idexNext_repack h, h.idex, h.exmem⟩

theorem clockEdge_repack : clockEdge (s.repack p) = (clockEdge s).repack (p.afterEdge s) := by
  unfold clockEdge
  rw [idexNext_repack h, exmemIn_repack h, memwbIn_repack h]
  simp only [regsNext_repack h, pcNext_repack h, dmemNext_repack h, ifidNext_repack h, stall_repack h, flush_repack h]
  rfl

/-- A halted block and a halt tick leave layout and control words as they are; an edge moves the words on. -/
theorem sameButLayout_tick_repack : Claims.sameButLayout (tick s) (tick (s.repack p)) := by
  rw [sameButLayout_iff]
  obtain ⟨hr, ht⟩ | ⟨hr, hhalt, ht⟩ | ⟨hr, hhalt, ht⟩ := tick_cases s
  · rw [ht, tick_of_halted (s := s.repack p) hr]
    exact ⟨p, rfl, h⟩
  · rw [ht, tick_of_haltTick (s := s.repack p) hr hhalt]
    exact ⟨p, rfl, h.own, h.other, h.idex, h.exmem, h.memwb⟩
  · rw [ht, tick_of_edge (s := s.repack p) hr hhalt]
    exact ⟨p.afterEdge s, clockEdge_repack h, h.afterEdge⟩

end

end Sys2Proof.Machine
end

section
/-! Proofs for 45_control_word.md: two admissible layouts give the same run and the same critical path (R203). -/

namespace Sys2Proof.Machine

section
variable {s : State} {p : Packing}

/-! ## The timed signals of a repacked block (48_timed_datapath.md R296 to R300) -/

@[simp] theorem sigOpcode_repack : sigOpcode (s.repack p) = sigOpcode s := rfl
@[simp] theorem sigFunct3_repack : sigFunct3 (s.repack p) = sigFunct3 s := rfl
@[simp] theorem sigFunct7_repack : sigFunct7 (s.repack p) = sigFunct7 s := rfl
@[simp] theorem sigRs1_repack : sigRs1 (s.repack p) = sigRs1 s := rfl
@[simp] theorem sigRs2_repack : sigRs2 (s.repack p) = sigRs2 s := rfl
@[simp] theorem sigRd_repack : sigRd (s.repack p) = sigRd s := rfl
@[simp] theorem sigPc_repack : sigPc (s.repack p) = sigPc s := rfl
@[simp] theorem sigPcPlus4_repack : sigPcPlus4 (s.repack p) = sigPcPlus4 s := rfl
@[simp] theorem sigInstr_repack : sigInstr (s.repack p) = sigInstr s := rfl

/-- The packed word is the value of one signal, `ControlWord`, and no timing looks at it (R297). -/
@[simp] theorem timing_sigControlWord_repack :
    timing (sigControlWord (s.repack p)) = timing (sigControlWord s) := rfl

@[simp] theorem timing_sigField_repack (f : Control → Nat) :
    timing (sigField (s.repack p) f) = timing (sigField s f) := rfl

variable (h : Repacks s p)
include h

@[simp] theorem sigResult_repack : sigResult (s.repack p) = sigResult s := by simp [sigResult, h]
@[simp] theorem sigMemAddr_repack : sigMemAddr (s.repack p) = sigMemAddr s := by simp [sigMemAddr, h]
@[simp] theorem sigMemWData_repack : sigMemWData (s.repack p) = sigMemWData s := by simp [sigMemWData, h]
@[simp] theorem sigMemRData_repack : sigMemRData (s.repack p) = sigMemRData s := by simp [sigMemRData, h]

@[simp] theorem sigImmExt_repack : sigImmExt (s.repack p) = sigImmExt s := by simp [sigImmExt, h]
@[simp] theorem sigRegRead_repack (field : Signal RegIdx) :
    sigRegRead (s.repack p) field = sigRegRead s field := by simp [sigRegRead, h]
@[simp] theorem sigStall_repack : sigStall (s.repack p) = sigStall s := by simp [sigStall, h]

@[simp] theorem sigControlForwardA_repack : sigControlForwardA (s.repack p) = sigControlForwardA s := by
  simp [sigControlForwardA, h]
@[simp] theorem sigControlForwardB_repack : sigControlForwardB (s.repack p) = sigControlForwardB s := by
  simp [sigControlForwardB, h]
@[simp] theorem sigControlForwardM_repack : sigControlForwardM (s.repack p) = sigControlForwardM s := by
  simp [sigControlForwardM, h]
@[simp] theorem sigForward_repack (c : Signal Selector) : sigForward (s.repack p) c = sigForward s c := by
  simp [sigForward, h]

@[simp] theorem sigSrcA_repack : sigSrcA (s.repack p) = sigSrcA s := by simp [sigSrcA, sigForwardA, h]
@[simp] theorem sigRegB_repack : sigRegB (s.repack p) = sigRegB s := by simp [sigRegB, sigForwardB, h]
@[simp] theorem sigWriteData_repack : sigWriteData (s.repack p) = sigWriteData s := by
  simp [sigWriteData, sigForwardM, h]
@[simp] theorem sigSrcB_repack : sigSrcB (s.repack p) = sigSrcB s := by simp [sigSrcB, h]
@[simp] theorem sigAluResult_repack : sigAluResult (s.repack p) = sigAluResult s := by simp [sigAluResult, h]
@[simp] theorem sigAluZero_repack : sigAluZero (s.repack p) = sigAluZero s := by simp [sigAluZero, h]
@[simp] theorem sigPcBranch_repack : sigPcBranch (s.repack p) = sigPcBranch s := by simp [sigPcBranch, h]
@[simp] theorem sigPcTarget_repack : sigPcTarget (s.repack p) = sigPcTarget s := by simp [sigPcTarget, h]
@[simp] theorem sigBranchTaken_repack : sigBranchTaken (s.repack p) = sigBranchTaken s := by simp [sigBranchTaken, h]
@[simp] theorem sigFlush_repack : sigFlush (s.repack p) = sigFlush s := by simp [sigFlush, h]
@[simp] theorem sigPcNext_repack : sigPcNext (s.repack p) = sigPcNext s := by simp [sigPcNext, h]

theorem signalTimings_repack : signalTimings (signals (s.repack p)) = signalTimings (signals s) := by
  simp [signalTimings, signals, sigRD1, sigRD2, sigForwardA, sigForwardB, sigForwardM, h]

theorem criticalPathTime_repack : criticalPathTime (s.repack p) = criticalPathTime s :=
  congrArg latest (signalTimings_repack h)

end

/-- Settles O39: the second state is the first in another packing, a tick of it is the first's tick repacked, and no
timing looks at a packed word. -/
theorem behaviourIndependentOfLayout : Obligations.BehaviourIndependentOfLayout := by
  intro s t hst hs
  obtain ⟨p, rfl, h⟩ := sameButLayout_iff.1 hst
  have ht : Claims.ticking (s.repack p) := ⟨hs.1, h.other⟩
  exact ⟨_, _, step_of_ticking hs, step_of_ticking ht, sameButLayout_tick_repack h, (criticalPathTime_repack h).symm⟩

end Sys2Proof.Machine
end

section
/-! Proofs for 46_pipeline_stages.md: what one tick of the block reports, writes, latches and counts (R211, R213, R222 to
R228). -/

namespace Sys2Proof.Machine

/-! ## The three kinds of tick (R211, R222) -/

theorem haltTick_iff (s : State) : haltTick s = true ↔ s.memwb.valid = true ∧ s.memwb.fault ≠ .none := by
  simp [haltTick]

theorem haltTick_of_committing {s : State} (h : Claims.committing s) : haltTick s = false := by
  obtain ⟨-, -, hwb⟩ := h
  rwa [← haltTick_iff, Bool.not_eq_true] at hwb

/-- A tick that commits is one clock edge. -/
theorem step_of_committing {s : State} (h : Claims.committing s) : step s = .next (clockEdge s) := by
  obtain ⟨hticking, hrun, -⟩ := id h
  rw [step_of_ticking hticking, tick_of_edge hrun (haltTick_of_committing h)]

/-- Settles O24: the three cases of a tick. -/
theorem haltedTickChangesNothing : Obligations.HaltedTickChangesNothing := by
  intro s hs
  refine ⟨fun hhalted => ⟨tick s, step_of_ticking hs, ?_, ?_⟩, fun hrun => ⟨tick s, step_of_ticking hs, ?_⟩⟩
  · rw [tick_of_halted hhalted]; rfl
  · simp [stepReport, hhalted]
  · obtain ⟨hhalted, -⟩ | ⟨-, -, ht⟩ | ⟨-, -, ht⟩ := tick_cases s
    · exact absurd hhalted hrun
    · exact .inl (by rw [ht, takeFault_runState])
    · exact .inr (by rw [ht, clockEdge_runState, clockEdge_cycleCount]; exact ⟨rfl, rfl⟩)

/-- Settles O25: the tick of a block with a tagged slot in WB takes the tag. -/
theorem haltTickTakesTheFault : Obligations.HaltTickTakesTheFault := by
  intro s hs hrun hvalid hfault
  refine ⟨tick s, step_of_ticking hs, ?_⟩
  rw [tick_of_haltTick hrun ((haltTick_iff s).2 ⟨hvalid, hfault⟩)]
  rfl

/-! ## Latches and counters (R223 to R226, R228) -/

/-- Settles O27: the rules of the edge, each under its own condition. -/
theorem pipelineRegistersLatch : Obligations.PipelineRegistersLatch := by
  intro s hs
  exact ⟨_, step_of_committing hs, rfl, rfl, by simp [idexNext], rfl, rfl⟩

/-- Settles O28: each counter goes up by one when its condition holds. -/
theorem countersAtTheEdge : Obligations.CountersAtTheEdge := by
  intro s hs
  exact ⟨_, step_of_committing hs, rfl, rfl, rfl, by simp [countIf]⟩

/-! ## The register file after the edge (R213, R214, R227) -/

/-- The value that a code of `ResSrc` selects (45_control_word.md R194). -/
def selectResult (resSrc : Nat) (aluResult memData link : Word) : Word :=
  if resSrc = 1 then memData else if resSrc = 2 then link else aluResult

theorem wbResult_eq (s : State) :
    wbResult s = selectResult (ctl s s.memwb.cw).resSrc s.memwb.aluResult s.memwb.memData s.memwb.pcPlus4 := by
  unfold wbResult selectResult
  split
  · next h => simp [h]
  · next h => simp [h]
  · next h1 h2 => rw [if_neg h1, if_neg h2]

/-- The slot is valid and its control word writes `r`: what forwarding looks for (47_hazard_forwarding.md R271). -/
def slotWrites (s : State) (valid : Bool) (cw : Nat) (rd r : RegIdx) : Bool :=
  valid && (ctl s cw).brWr == 1 && rd == r

theorem slotWrites_iff {s : State} {valid : Bool} {cw : Nat} {rd r : RegIdx} :
    slotWrites s valid cw rd r = true ↔ valid = true ∧ (ctl s cw).brWr = 1 ∧ rd = r := by
  simp [slotWrites, and_assoc]

/-- Reading a register looks at the register file only. -/
theorem readReg_congr {s t : State} (h : t.regs = s.regs) (r : RegIdx) : readReg t r = readReg s r := by
  simp [readReg, h]

/-- The register file after the edge differs from the old one in the register that WB writes. -/
theorem readReg_clockEdge (s : State) {r : RegIdx} (hr : r ≠ 0#5) :
    readReg (clockEdge s) r =
      if slotWrites s s.memwb.valid s.memwb.cw s.memwb.rd r = true then wbResult s else readReg s r := by
  cases hw : wbEn s with
  | true =>
    rw [readReg_congr (s := writeReg s s.memwb.rd (wbResult s)) (by simp [regsNext, hw]), readReg_writeReg]
    simp only [wbEn, Bool.and_eq_true, beq_iff_eq] at hw
    obtain ⟨⟨hv, hb⟩, -⟩ := hw
    simp only [slotWrites_iff, hv, hb, hr, eq_comm (a := r), ne_eq, not_false_eq_true, true_and, and_true]
  | false =>
    rw [readReg_congr (s := s) (by simp [regsNext, hw]), if_neg]
    rw [slotWrites_iff]
    rintro ⟨hv, hb, rfl⟩
    simp [wbEn, hv, hb, hr] at hw

/-- What ID reads in a tick that is no halt tick is what the register file holds after it (R214). -/
theorem rfRead_eq_readReg_clockEdge {s : State} (h : haltTick s = false) (r : RegIdx) :
    rfRead s r = readReg (clockEdge s) r := by
  by_cases hr : r = 0#5
  · subst hr; rfl
  · have hw : (wbEn s && s.memwb.rd == r && !haltTick s) = slotWrites s s.memwb.valid s.memwb.cw s.memwb.rd r := by
      rw [Bool.eq_iff_iff, slotWrites_iff]
      simp only [wbEn, h, Bool.and_eq_true, beq_iff_eq, bne_iff_ne, Bool.not_false, and_true]
      constructor
      · rintro ⟨⟨⟨hv, hb⟩, -⟩, rfl⟩; exact ⟨hv, hb, rfl⟩
      · rintro ⟨hv, hb, rfl⟩; exact ⟨⟨⟨hv, hb⟩, hr⟩, rfl⟩
    rw [rfRead, if_neg hr, readReg_clockEdge s hr, hw]

/-- Settles O30: with no stall and no flush the operands latched are those that ID reads. -/
theorem registerReadSeesWriteBack : Obligations.RegisterReadSeesWriteBack := by
  intro s hs hstall hflush
  have hidex : (clockEdge s).idex = idexIn s := by simp [idexNext, hstall, hflush]
  have hhalt := haltTick_of_committing hs
  refine ⟨_, step_of_committing hs, ?_, ?_⟩
  · rw [hidex]; exact rfRead_eq_readReg_clockEdge hhalt _
  · rw [hidex]; exact rfRead_eq_readReg_clockEdge hhalt _

/-! ## The data memory after the edge (R219, R227) -/

/-- The store that MEM performs, by its conditions. -/
theorem memStores_iff (s : State) :
    memStores s = true ↔
      s.exmem.valid = true ∧ s.exmem.fault = .none ∧ (ctl s s.exmem.cw).memWr = 1 ∧
        accessFault s.memSize s.exmem.aluResult = .none := by
  constructor
  · intro h
    have hok := accessFault_none_of_memStores h
    simp only [memStores, memActive, memIsStore, Bool.and_eq_true, beq_iff_eq] at h
    obtain ⟨⟨⟨⟨hvalid, hfault⟩, -⟩, -⟩, hstore⟩ := h
    exact ⟨hvalid, hfault, hstore, hok⟩
  · rintro ⟨hvalid, hfault, hstore, hok⟩
    simp [memStores, memActive, memFault, memIsStore, hvalid, hfault, hstore, hok]

theorem readByte_dmemNext {s : State} (hwf : s.dmem.wf = true) (a : Nat) :
    readByte (dmemNext s) a =
      if memStores s = true ∧ s.exmem.aluResult.toNat ≤ a ∧ a < s.exmem.aluResult.toNat + 4 then
        byteOfWord s.exmem.storeData (a - s.exmem.aluResult.toNat)
      else readByte s.dmem a := by
  cases hst : memStores s with
  | false => simp [dmemNext, hst]
  | true =>
    rw [dmemNext, if_pos hst]
    by_cases ha : s.exmem.aluResult.toNat ≤ a ∧ a < s.exmem.aluResult.toNat + 4
    · obtain ⟨k, rfl⟩ := Nat.exists_eq_add_of_le ha.1
      rw [if_pos ⟨rfl, ha⟩, readByte_writeWord_inside hwf _ _ (by omega), Nat.add_sub_cancel_left]
    · rw [if_neg (fun h => ha h.2), readByte_writeWord_outside hwf _ (by omega)]

/-- Settles O26: the register that WB writes, and the four bytes that MEM stores. -/
theorem tickCommitsOneRegisterAndOneWord : Obligations.TickCommitsOneRegisterAndOneWord := by
  intro s hs
  refine ⟨_, step_of_committing hs, fun r => ?_, fun hwf a => ?_⟩
  · by_cases hr : r = 0#5
    · subst hr; simp
    · rw [readReg_clockEdge s hr, wbResult_eq]
      simp only [slotWrites_iff, selectResult, ctl, unpack, extract_eq_fieldOf, hr, ne_eq, not_false_eq_true, and_true]
  · rw [clockEdge_dmem, readByte_dmemNext hwf]
    simp only [memStores_iff, accessFault_none_iff, ctl, unpack, extract_eq_fieldOf, and_assoc, byteOfWord]

end Sys2Proof.Machine
end

section
/-! Proofs for 46_pipeline_stages.md and 70_reset_and_hazards.md: how ticks, retired instructions and bubbles are counted
(R228, R268, R389, R390). -/

namespace Sys2Proof.Machine

/-! ## The reference leaves the pipeline alone (log 4) -/

/-- `t` is `s` but for what an instruction executed alone can change: registers, pc, data memory, run state and fault
record. -/
def archOnly (s t : State) : Prop :=
  t = { s with regs := t.regs, pc := t.pc, dmem := t.dmem, runState := t.runState, faultRecord := t.faultRecord }

theorem archOnly_exec {s t : State} {i : Instr} (he : exec i s = .next t) : archOnly s t := by
  obtain ⟨rd, v, p, hs⟩ | ⟨p, hs⟩ | ⟨a, v, -, hs⟩ | ⟨a, -, hs⟩ := exec_cases i s <;>
    obtain rfl := Host.Outcome.next.inj (hs.symm.trans he) <;>
    rfl

theorem archOnly_fetchAndExec {s t : State} (he : fetchAndExec s = .next t) : archOnly s t := by
  obtain ⟨-, hs⟩ | ⟨-, -, hs⟩ | ⟨-, i, -, hs⟩ := fetchAndExec_cases s
  · obtain rfl := Host.Outcome.next.inj (hs.symm.trans he)
    rfl
  · obtain rfl := Host.Outcome.next.inj (hs.symm.trans he)
    rfl
  · exact archOnly_exec (hs.symm.trans he)

theorem archOnly_referenceStep {s t : State} (he : referenceStep s = .next t) : archOnly s t := by
  by_cases hr : s.runState = .haltedFault
  · simp only [referenceStep, hr, Host.Outcome.next.injEq] at he
    exact he ▸ rfl
  · rw [referenceStep_of_not_halted hr] at he
    have h := archOnly_fetchAndExec he
    exact h

/-! ## When a tick stalls or flushes (47_hazard_forwarding.md R261 to R268) -/

/-- A stall has an instruction in ID to hold. -/
theorem ifid_valid_of_stall {s : State} (h : stall s = true) : s.ifid.valid = true := by
  by_contra hv
  have hok : idOk s = false := by simp [idOk, hv]
  have hformat : idFormat s = none := by simp [idFormat, hok]
  simp [stall, needStall, matchIDEX, matchEXMEM, hazardMatch, usesRs1, usesRs2, hformat] at h

/-- A stall waits for a producer in EX or in MEM. -/
theorem producer_valid_of_stall {s : State} (h : stall s = true) : s.idex.valid = true ∨ s.exmem.valid = true := by
  by_contra hv
  simp only [not_or, Bool.not_eq_true] at hv
  simp [stall, needStall, matchIDEX, matchEXMEM, hazardMatch, hv] at h

theorem idex_valid_of_branchTaken {s : State} (h : branchTaken s = true) : s.idex.valid = true := by
  simp only [branchTaken, exValid, Bool.and_eq_true] at h
  exact h.1.1

theorem branchTaken_of_flush {s : State} (h : flush s = true) : branchTaken s = true := by
  simp only [flush, Bool.and_eq_true] at h
  exact h.2

/-! ## Counting ticks (R389, R390) -/

/-- The three things an edge does with the slots in ID and before it (46_pipeline_stages.md R224, R225). -/
theorem frontEnd_cases (s : State) :
    (flush s = true ∧ ifidNext s = IFID.zero ∧ idexNext s = IDEX.zero) ∨
    (flush s = false ∧ stall s = true ∧ ifidNext s = s.ifid ∧ idexNext s = IDEX.zero) ∨
    (flush s = false ∧ stall s = false ∧ ifidNext s = ifidIn s ∧ idexNext s = idexIn s) := by
  unfold ifidNext idexNext
  cases flush s with
  | true => exact .inl ⟨rfl, rfl, rfl⟩
  | false =>
    cases stall s with
    | true => exact .inr (.inl ⟨rfl, rfl, rfl, rfl⟩)
    | false => exact .inr (.inr ⟨rfl, rfl, rfl, rfl⟩)

/-- One edge: a flush puts in two bubbles behind an instruction in ID and one in EX, a stall puts in one, and every other
tick fetches. -/
theorem ticksAccounted_clockEdge {s : State} (hb : bubblesTogether s) (h : ticksAccounted s) :
    ticksAccounted (clockEdge s) := by
  have hwb : countIf s.memwb.valid s.retiredCount + bubble s.memwb.valid = s.retiredCount + 1 := by
    cases s.memwb.valid <;> rfl
  have hbubble : bubble false = 1 := rfl
  have hinstr : bubble true = 0 := rfl
  simp only [ticksAccounted, bubblesInFlight, clockEdge_cycleCount, clockEdge_retiredCount, clockEdge_stallCount,
    clockEdge_flushCount, clockEdge_ifid, clockEdge_idex, clockEdge_exmem, clockEdge_memwb, exmemIn, memwbIn] at h ⊢
  obtain ⟨hf, hifid, hidex⟩ | ⟨hf, hst, hifid, hidex⟩ | ⟨hf, hst, hifid, hidex⟩ := frontEnd_cases s
  · have hd : s.idex.valid = true := idex_valid_of_branchTaken (branchTaken_of_flush hf)
    have hi : s.ifid.valid = true := by
      by_contra hi
      simp [hb (Bool.not_eq_true _ ▸ hi)] at hd
    simp only [hifid, hidex, hf, hd, hi, IFID.zero, IDEX.zero, countIf, Bool.not_true, Bool.and_false,
      Bool.false_eq_true, if_true, if_false] at h hwb ⊢
    omega
  · have hi := ifid_valid_of_stall hst
    simp only [hifid, hidex, hf, hst, hi, IDEX.zero, countIf, Bool.not_false, Bool.and_true, Bool.false_eq_true,
      if_true, if_false] at h hwb ⊢
    omega
  · simp only [hifid, hidex, hf, hst, ifidIn, idexIn, countIf, Bool.false_and, Bool.false_eq_true, if_false]
      at h hwb ⊢
    omega

/-- Settles O42: a step of the reference and a halt tick leave pipeline registers and counters alone, and an edge
accounts for the bubbles it puts in. -/
theorem ticksAreAccountedFor : Obligations.TicksAreAccountedFor := by
  refine ⟨⟨rfl, fun _ => rfl⟩, fun s t hb h hstep => ?_⟩
  obtain ⟨-, href⟩ | ⟨-, -, rfl⟩ := step_next_cases hstep
  · rw [archOnly_referenceStep href]
    exact ⟨hb, h⟩
  · obtain ⟨-, ht⟩ | ⟨-, -, ht⟩ | ⟨-, -, ht⟩ := tick_cases s
    · rw [ht]; exact ⟨hb, h⟩
    · rw [ht]; exact ⟨hb, h⟩
    · rw [ht]; exact ⟨bubblesTogether_clockEdge s, ticksAccounted_clockEdge hb h⟩

/-! ## Runs of ticks (R211) -/

theorem ticking_tick {s : State} (h : Claims.ticking s) : Claims.ticking (tick s) := by
  obtain ⟨-, ht⟩ | ⟨-, -, ht⟩ | ⟨-, -, ht⟩ := tick_cases s <;> rw [ht] <;> exact h

theorem ticks_succ (n : Nat) (s : State) : ticks (n + 1) s = tick (ticks n s) := by
  induction n generalizing s with
  | zero => rfl
  | succ n ih => exact ih (tick s)

theorem ticking_ticks {s : State} (h : Claims.ticking s) (n : Nat) : Claims.ticking (ticks n s) := by
  induction n with
  | zero => exact h
  | succ n ih => rw [ticks_succ]; exact ticking_tick ih

/-- A pipelined block with an admissible layout can take any number of ticks, in one way. -/
theorem stepsTo_iff_eq_ticks {s t : State} (h : Claims.ticking s) (n : Nat) :
    Claims.stepsTo n s t ↔ t = ticks n s := by
  induction n generalizing s with
  | zero => exact eq_comm
  | succ n ih => simp only [Claims.stepsTo, step_of_ticking h, Host.Outcome.next.injEq, exists_eq_left', ticks,
      ih (ticking_tick h)]

/-! ## The distance to the next retirement (R230, R389)

A slot that is on its way retires after as many ticks as it is stages away from WB. Only the slot in ID can be held, by
a producer in EX or MEM that retires before it. -/

/-- After the first tick there is an instruction in ID, or the transfer that flushed it stands in MEM. -/
def inFlight (s : State) : Prop := s.ifid.valid = true ∨ s.exmem.valid = true

theorem inFlight_clockEdge (s : State) : inFlight (clockEdge s) := by
  simp only [inFlight, clockEdge_ifid, clockEdge_exmem]
  obtain ⟨hf, -, -⟩ | ⟨-, hst, hifid, -⟩ | ⟨-, -, hifid, -⟩ := frontEnd_cases s
  · exact .inr (idex_valid_of_branchTaken (branchTaken_of_flush hf))
  · rw [hifid]; exact .inl (ifid_valid_of_stall hst)
  · rw [hifid]; exact .inl rfl

/-- How many ticks the slot nearest to WB is away from it; 3 stands for a slot in ID or before. -/
def distanceToWb (s : State) : Nat :=
  if s.memwb.valid then 0 else if s.exmem.valid then 1 else if s.idex.valid then 2 else 3

theorem distanceToWb_le (s : State) : distanceToWb s ≤ 3 := by
  unfold distanceToWb
  split_ifs <;> omega

/-- With EX and MEM empty nothing holds the slot in ID and nothing drops it. -/
theorem frontEnd_of_empty {s : State} (hd : s.idex.valid = false) (hx : s.exmem.valid = false) :
    ifidNext s = ifidIn s ∧ idexNext s = idexIn s := by
  obtain ⟨hf, -⟩ | ⟨-, hst, -⟩ | ⟨-, -, hifid, hidex⟩ := frontEnd_cases s
  · simpa [hd] using idex_valid_of_branchTaken (branchTaken_of_flush hf)
  · simpa [hd, hx] using producer_valid_of_stall hst
  · exact ⟨hifid, hidex⟩

theorem idex_valid_clockEdge {s : State} (h : inFlight s) (hd : s.idex.valid = false) (hx : s.exmem.valid = false) :
    (clockEdge s).idex.valid = true := by
  have hi : s.ifid.valid = true := by simpa [inFlight, hx] using h
  rw [clockEdge_idex, (frontEnd_of_empty hd hx).2]
  exact hi

/-- Every edge brings the next retirement nearer, and one that retires leaves the next at most two ticks away. -/
theorem distanceToWb_clockEdge {s : State} (h : inFlight s) :
    distanceToWb (clockEdge s) + 1 ≤ if s.memwb.valid then 3 else distanceToWb s := by
  have hnew : distanceToWb (clockEdge s) + 1 ≤
      if s.exmem.valid then 1 else if s.idex.valid then 2 else 3 := by
    simp only [distanceToWb, clockEdge_memwb, clockEdge_exmem, memwbIn, exmemIn]
    by_cases hx : s.exmem.valid = true
    · simp [hx]
    · by_cases hd : s.idex.valid = true
      · simp [hx, hd]
      · simp only [Bool.not_eq_true] at hx hd
        simp only [hx, hd, idex_valid_clockEdge h hd hx, Bool.false_eq_true, if_true, if_false]
        omega
  refine hnew.trans ?_
  simp only [distanceToWb]
  split_ifs <;> omega

/-- What `n` ticks after the first have retired, counted in ticks. -/
theorem retired_after {s : State} (h : inFlight s) (n : Nat) :
    (ticks n s).runState = .haltedFault ∨
      (inFlight (ticks n s) ∧
        3 * s.retiredCount + n + distanceToWb (ticks n s) ≤ 3 * (ticks n s).retiredCount + 3) := by
  induction n with
  | zero =>
    have := distanceToWb_le s
    exact .inr ⟨h, by simp only [ticks]; omega⟩
  | succ n ih =>
    rw [ticks_succ]
    generalize ticks n s = v at ih ⊢
    obtain ⟨hrun, ht⟩ | ⟨-, -, ht⟩ | ⟨hrun, -, ht⟩ := tick_cases v
    · rw [ht]; exact .inl hrun
    · exact .inl (by rw [ht, takeFault_runState])
    · obtain hhalted | ⟨hv, hcount⟩ := ih
      · exact absurd hhalted hrun
      · have hnear := distanceToWb_clockEdge hv
        rw [ht]
        refine .inr ⟨inFlight_clockEdge v, ?_⟩
        rw [clockEdge_retiredCount, countIf]
        cases hm : v.memwb.valid with
        | true =>
          simp only [hm, if_true, distanceToWb] at hnear hcount ⊢
          omega
        | false =>
          simp only [hm, Bool.false_eq_true, if_false] at hnear ⊢
          omega

theorem haltTick_of_drained {s : State} (h : drained s) : haltTick s = false := by
  obtain ⟨-, -, -, hwb⟩ := h
  simp [haltTick, hwb, MEMWB.zero]

/-- The first tick of an empty pipeline is an edge. -/
theorem tick_of_startsClean {s : State} (h : Claims.startsClean s) : tick s = clockEdge s := by
  obtain ⟨-, hdrained, hready⟩ := h
  exact tick_of_edge (by simp [hready]) (haltTick_of_drained hdrained)

/-- Settles O45: from the first tick on, each tick brings the next retirement nearer, and a retirement leaves the next
at most three ticks away. -/
theorem retiresAtLeastEveryThirdTick : Obligations.RetiresAtLeastEveryThirdTick := by
  intro s n hs
  obtain ⟨hticking, ⟨-, -, -, hwb⟩, -⟩ := id hs
  refine ⟨_, (stepsTo_iff_eq_ticks hticking _).2 rfl, ?_⟩
  have hfirst : tick s = clockEdge s := tick_of_startsClean hs
  have hretired : (clockEdge s).retiredCount = s.retiredCount := by simp [countIf, hwb, MEMWB.zero]
  change (ticks (3 * n + 3) (tick s)).runState = _ ∨ _ ≤ (ticks (3 * n + 3) (tick s)).retiredCount
  rw [hfirst]
  refine (retired_after (inFlight_clockEdge s) (3 * n + 3)).imp_right fun ⟨_, hcount⟩ => ?_
  omega

end Sys2Proof.Machine
end

section
/-! Facts for 46_pipeline_stages.md: an instruction executed alone, written with the control word, the ALU and the fields
of its word that the stages use (45_control_word.md R193 to R202). This is where `exec` and the datapath meet. -/

namespace Sys2Proof.Machine

/-! ## The datapath of one instruction -/

/-- `BranchTaken` by `PCsrc` and the ALU's result (46_pipeline_stages.md R217). -/
def transfers (pcSrc : Nat) (v : Word) : Bool :=
  match pcSrc with
  | 1 => isZero v
  | 2 => !isZero v
  | 3 => true
  | 4 => true
  | _ => false

theorem branchTaken_eq (s : State) : branchTaken s = (exValid s && transfers (exCtl s).pcSrc (aluResult s)) := rfl

section
variable (A : State) (i : Instr) (w : Word)

/-- The immediate that the instruction's `ImmSrc` selects from its word. -/
def archImm : Word := selectImm (decodeControl i).immSrc w

/-- What the ALU computes from the registers of `A` (R216). -/
def archAlu : Word :=
  alu (decodeControl i).aluCtr (readReg A (fieldRs1 w))
    (if (decodeControl i).aluSrc = 1 then archImm i w else readReg A (fieldRs2 w))

/-- The value for the destination register (R213). -/
def archResult : Word :=
  selectResult (decodeControl i).resSrc (archAlu A i w) (loadWord A (archAlu A i w)) (A.pc + 4)

/-- The address of the next instruction (R217, R223). -/
def archPc : Word :=
  if transfers (decodeControl i).pcSrc (archAlu A i w) then
    (if (decodeControl i).pcSrc = 4 then clearBit0 (archAlu A i w) else A.pc + archImm i w)
  else A.pc + 4

/-- The instruction accesses data memory (R219). -/
def accesses : Bool := (decodeControl i).resSrc == 1 || (decodeControl i).memWr == 1

/-- The outcome of the checks of the instruction's access, none if it has none. -/
def archTag : FaultTag := if accesses i = true then accessFault A.memSize (archAlu A i w) else .none

/-- `A` after the instruction, when its access, if any, is legal. -/
def completed : State :=
  { A with
    regs := if (decodeControl i).brWr = 1 then (writeReg A (fieldRd w) (archResult A i w)).regs else A.regs
    dmem :=
      if (decodeControl i).memWr = 1 then writeWord A.dmem (archAlu A i w).toNat (readReg A (fieldRs2 w)) else A.dmem
    pc := archPc A i w }

end

/-! ## The two levels agree, instruction by instruction -/

/-- Bits 4:0 of the I-immediate are the shift amount (30_encoding.md R94). -/
theorem extractLsb'_immI (w : Word) : (immI w).extractLsb' 0 5 = rawShamt w := by
  apply BitVec.eq_of_getLsbD_eq
  intro j hj
  rw [BitVec.getLsbD_extractLsb', getLsbD_immI w (by omega), getLsbD_rawShamt w hj, Nat.zero_add, if_pos (by omega),
    decide_eq_true hj, Bool.true_and]

/-- A difference is 0 exactly for equal operands: how BEQ and BNE compare (R202). -/
theorem isZero_sub (a b : Word) : isZero (a - b) = (a == b) := by
  rw [Bool.eq_iff_iff, isZero, beq_iff_eq, beq_iff_eq]
  exact sub_eq_zero

theorem immI_encodeI (imm : BitVec 12) (rs1 : RegIdx) (f3 : BitVec 3) (rd : RegIdx) (op : BitVec 7) :
    immI (encodeI imm rs1 f3 rd op) = immOperand imm := by
  rw [immI, rawImmI_encodeI, immOperand]

theorem immS_encodeS (imm : BitVec 12) (rs2 rs1 : RegIdx) (f3 : BitVec 3) (op : BitVec 7) :
    immS (encodeS imm rs2 rs1 f3 op) = immOperand imm := by
  rw [immS, rawImmS_encodeS, immOperand]

section
variable {A : State} {i : Instr} {w : Word}

/-- What `exec` answers, by the outcome of the instruction's access checks. -/
def archOutcome (A : State) (i : Instr) (w : Word) : State :=
  if archTag A i w = .none then completed A i w else takeFault A (archTag A i w) A.pc (archAlu A i w)

theorem archOutcome_of_not_accesses (h : accesses i = false) : archOutcome A i w = completed A i w := by
  simp [archOutcome, archTag, h]

/-- An instruction whose control word only computes: `exec` must write what the ALU computes. -/
theorem exec_of_aluOp {aluSrc aluCtr : Nat} (hc : decodeControl i = .aluOp aluSrc aluCtr)
    (he : exec i A = writeResult (fieldRd w)
      (alu aluCtr (readReg A (fieldRs1 w)) (if aluSrc = 1 then immI w else readReg A (fieldRs2 w))) A) :
    exec i A = .next (archOutcome A i w) := by
  rw [archOutcome_of_not_accesses (by simp [accesses, hc, Control.aluOp, Control.zero]), he, writeResult_eq]
  simp only [completed, archPc, archResult, archAlu, archImm, selectImm, selectResult, transfers, hc, Control.aluOp,
    Control.zero]
  rfl

/-- A load or a store: `exec` must access the address that the ALU computes. -/
theorem exec_of_dataAccess {access : State} (hacc : accesses i = true)
    (he : exec i A = dataAccess (archAlu A i w) A access) (hc : setPc access (A.pc + 4) = completed A i w) :
    exec i A = .next (archOutcome A i w) := by
  have htag : archTag A i w = accessFault A.memSize (archAlu A i w) := if_pos hacc
  rw [he, archOutcome, htag]
  by_cases hok : accessFault A.memSize (archAlu A i w) = .none
  · rw [if_pos hok, dataAccess_of_ok hok, hc]
  · rw [if_neg hok, dataAccess_of_fault hok]

end

/-- `exec` is the datapath: each instruction's fields and immediate stand in its word where the stages read them. -/
theorem exec_of_decode {A : State} {i : Instr} {w : Word} (hd : decode w = .instr i) :
    exec i A = .next (archOutcome A i w) := by
  obtain ⟨hwf, rfl⟩ := decode_eq_instr_iff.1 hd
  cases i with
  | lw rd rs1 imm =>
    have hv : archAlu A (.lw rd rs1 imm) (encode (.lw rd rs1 imm)) = effectiveAddress A rs1 imm := by
      simp [archAlu, archImm, decodeControl, Control.zero, selectImm, alu, encode, immI_encodeI, effectiveAddress]
    refine exec_of_dataAccess rfl (by rw [hv]; exact exec_lw rd rs1 imm A) ?_
    simp only [completed, archPc, archResult, hv]
    simp [decodeControl, Control.zero, transfers, selectResult, encode]
    rfl
  | sw rs2 rs1 imm =>
    have hv : archAlu A (.sw rs2 rs1 imm) (encode (.sw rs2 rs1 imm)) = effectiveAddress A rs1 imm := by
      simp [archAlu, archImm, decodeControl, Control.zero, selectImm, alu, encode, immS_encodeS, effectiveAddress]
    refine exec_of_dataAccess rfl (by rw [hv]; exact exec_sw rs2 rs1 imm A) ?_
    simp only [completed, archPc, hv]
    simp [decodeControl, Control.zero, transfers, encode]
    rfl
  | beq rs1 rs2 imm | bne rs1 rs2 imm =>
    rw [archOutcome_of_not_accesses rfl]
    simp only [exec_beq, exec_bne, branchIf, completed, archPc, archAlu, archImm, decodeControl, Control.zero, encode,
      transfers, alu, isZero_sub, selectImm, immB, rawImmB_encodeB hwf, fieldRs1_encodeB, fieldRs2_encodeB]
    rfl
  | jal rd imm =>
    rw [archOutcome_of_not_accesses rfl, exec_jal, jumpAndLink]
    simp only [completed, archPc, archImm, archResult, decodeControl, Control.zero, encode, transfers, selectImm,
      selectResult, immJ, rawImmJ_encodeJ hwf, fieldRd_encodeJ]
    rfl
  | jalr rd rs1 imm =>
    rw [archOutcome_of_not_accesses rfl, exec_jalr, jumpAndLink]
    simp only [completed, archPc, archAlu, archImm, archResult, decodeControl, Control.zero, encode, transfers, alu,
      selectImm, selectResult, immI_encodeI, fieldRd_encodeI, fieldRs1_encodeI]
    rfl
  | slli | srli | srai =>
    exact exec_of_aluOp rfl (by
      simp only [encode, fieldRd_encodeR, fieldRs1_encodeR, alu, if_true, extractLsb'_immI, rawShamt_encodeR]; rfl)
  | addi | slti | sltiu | xori | ori | andi =>
    exact exec_of_aluOp rfl (by simp only [encode, fieldRd_encodeI, fieldRs1_encodeI, immI_encodeI]; rfl)
  | add | sub | sll | slt | sltu | xor | srl | sra | or | and =>
    exact exec_of_aluOp rfl (by simp only [encode, fieldRd_encodeR, fieldRs1_encodeR, fieldRs2_encodeR]; rfl)

end Sys2Proof.Machine
end

section
/-! Facts for 46_pipeline_stages.md: what each stage does for the instruction that the reference executes at a state `A`
(R213 to R221). `A` holds the registers and the data memory that the instruction sees; the block `t` holds its slot. -/

namespace Sys2Proof.Machine

/-! ## The reference as a function (R232) -/

/-- The state after one step of the reference, which always answers one. -/
def refNext (A : State) : State :=
  match referenceStep A with
  | .next t => t
  | .fault _ => A
  | .refused _ => A

theorem exec_answers (i : Instr) (s : State) : ∃ t, exec i s = .next t := by
  obtain ⟨rd, v, p, hs⟩ | ⟨p, hs⟩ | ⟨a, v, -, hs⟩ | ⟨a, -, hs⟩ := exec_cases i s <;> exact ⟨_, hs⟩

theorem fetchAndExec_answers (s : State) : ∃ t, fetchAndExec s = .next t := by
  obtain ⟨-, hs⟩ | ⟨-, -, hs⟩ | ⟨-, i, -, hs⟩ := fetchAndExec_cases s
  · exact ⟨_, hs⟩
  · exact ⟨_, hs⟩
  · rw [hs]; exact exec_answers i s

theorem referenceStep_eq_next (A : State) : referenceStep A = .next (refNext A) := by
  have h : ∃ t, referenceStep A = .next t := by
    obtain ⟨-, hs⟩ | ⟨-, hs⟩ | ⟨-, hs⟩ := referenceStep_cases A
    · exact ⟨_, hs⟩
    · rw [hs]; exact fetchAndExec_answers A
    · rw [hs]; exact fetchAndExec_answers _
  obtain ⟨t, ht⟩ := h
  rw [refNext, ht]

theorem refNext_of_halted {A : State} (h : A.runState = .haltedFault) : refNext A = A := by
  simp [refNext, referenceStep, h]

theorem refNext_of_ready {A B : State} (h : A.runState = .ready) (hs : fetchAndExec A = .next B) : refNext A = B := by
  simp [refNext, referenceStep, h, hs]

theorem programAndConfig_refNext (A : State) : programAndConfig (refNext A) = programAndConfig A :=
  referenceStep_keeps_programAndConfig (referenceStep_eq_next A)

/-- The word at pc. -/
def wordAt (A : State) : Word := fetchWord A A.pc

/-- The reference fetches the instruction `i`. -/
def fetches (A : State) (i : Instr) : Prop := accessFault A.memSize A.pc = .none ∧ decode (wordAt A) = .instr i

/-- The reference takes the fault `tag` at `A`. -/
def raises (A : State) (tag : FaultTag) (info : Word) : Prop :=
  tag ≠ .none ∧ refNext A = takeFault A tag A.pc info

/-- The reference executes `i` at `A`. -/
def executes (A : State) (i : Instr) : Prop := fetches A i ∧ refNext A = archOutcome A i (wordAt A)

theorem executes_of_fetches {A : State} {i : Instr} (hr : A.runState = .ready) (h : fetches A i) : executes A i := by
  obtain ⟨hok, hd⟩ := h
  exact ⟨⟨hok, hd⟩, refNext_of_ready hr ((fetchAndExec_of_instr hok hd).trans (exec_of_decode hd))⟩

/-- A running reference meets a bad address, an invalid word or an instruction. -/
theorem refNext_cases {A : State} (hr : A.runState = .ready) :
    (accessFault A.memSize A.pc ≠ .none ∧ raises A (accessFault A.memSize A.pc) A.pc) ∨
    (accessFault A.memSize A.pc = .none ∧ (∃ why, decode (wordAt A) = .invalid why) ∧ raises A .decode (wordAt A)) ∨
    (∃ i, executes A i) := by
  obtain ⟨hf, hs⟩ | ⟨hok, hw, hs⟩ | ⟨hok, i, hd, -⟩ := fetchAndExec_cases A
  · exact .inl ⟨hf, hf, refNext_of_ready hr hs⟩
  · exact .inr (.inl ⟨hok, hw, by decide, refNext_of_ready hr hs⟩)
  · exact .inr (.inr ⟨i, executes_of_fetches hr ⟨hok, hd⟩⟩)

/-! ## What the control words of the 25 instructions have in common (45_control_word.md R200) -/

section
variable (i : Instr)

theorem decodeControl_aluSrc : (decodeControl i).aluSrc = 0 ∨ (decodeControl i).aluSrc = 1 := by
  obtain ⟨-, -, -, -, h, -, -⟩ := Laws.ControlFits.every i
  omega

/-- Only JAL reads no register; its result is its link. -/
theorem resSrc_of_pcSrc_three (h : (decodeControl i).pcSrc = 3) : (decodeControl i).resSrc = 2 := by
  cases i <;> simp_all [decodeControl, Control.aluOp, Control.zero]

theorem pcSrc_of_accesses (h : accesses i = true) : (decodeControl i).pcSrc ≠ 3 := by
  cases i <;> simp_all [accesses, decodeControl, Control.aluOp, Control.zero]

theorem formatHasRs1_of_pcSrc (h : (decodeControl i).pcSrc ≠ 3) : formatHasRs1 i.format = true := by
  cases i <;> simp_all [decodeControl, Control.zero, Instr.format, Instr.mnemonic, Mnemonic.format, formatHasRs1]

theorem formatHasRs2_of_aluSrc (hs : (decodeControl i).aluSrc = 0) (h : (decodeControl i).pcSrc ≠ 3) :
    formatHasRs2 i.format = true := by
  cases i <;> simp_all [decodeControl, Control.aluOp, Control.zero, Instr.format, Instr.mnemonic, Mnemonic.format,
    formatHasRs2]

theorem formatHasRs2_of_memWr (h : (decodeControl i).memWr = 1) : formatHasRs2 i.format = true := by
  cases i <;> simp_all [decodeControl, Control.aluOp, Control.zero, Instr.format, Instr.mnemonic, Mnemonic.format,
    formatHasRs2]

end

/-! ## The slot of the instruction at `A` in the three later stages

Operands and results that the control word does not use are not described: in the pipeline they hold values of other
instructions. -/

/-- The parts of a slot that every stage hands on. -/
structure Carries (A : State) (i : Instr) (fault : FaultTag) (cw : Nat) (rd : RegIdx) : Prop where
  executes : executes A i
  fault    : fault = .none
  cw       : cw = pack A.layout (decodeControl i)
  rd       : rd = fieldRd (wordAt A)

/-- The slot in EX (R31, R215). -/
structure StandsInEx (A : State) (p : IDEX) : Prop where
  pc      : p.pc = A.pc
  pcPlus4 : p.pcPlus4 = A.pc + 4
  content : (raises A p.fault p.faultInfo ∧ p.cw = 0) ∨
    ∃ i, Carries A i p.fault p.cw p.rd ∧ p.rs1Idx = fieldRs1 (wordAt A) ∧ p.rs2Idx = fieldRs2 (wordAt A) ∧
      p.imm = archImm i (wordAt A)

/-- The slot in MEM (R32, R218). -/
structure StandsInMem (A : State) (p : EXMEM) : Prop where
  pc      : p.pc = A.pc
  pcPlus4 : p.pcPlus4 = A.pc + 4
  content : (raises A p.fault p.faultInfo ∧ p.cw = 0) ∨
    ∃ i, Carries A i p.fault p.cw p.rd ∧
      ((decodeControl i).pcSrc ≠ 3 → p.aluResult = archAlu A i (wordAt A)) ∧
      ((decodeControl i).memWr = 1 → p.storeData = readReg A (fieldRs2 (wordAt A)))

/-- The slot in WB (R33, R220). -/
structure StandsInWb (A : State) (p : MEMWB) : Prop where
  pc      : p.pc = A.pc
  content : raises A p.fault p.faultInfo ∨
    ∃ i, Carries A i p.fault p.cw p.rd ∧ archTag A i (wordAt A) = .none ∧
      ((decodeControl i).brWr = 1 →
        selectResult (decodeControl i).resSrc p.aluResult p.memData p.pcPlus4 = archResult A i (wordAt A))

theorem not_raises_of_ready {A : State} (h : (refNext A).runState = .ready) {tag : FaultTag} {info : Word} :
    ¬ raises A tag info := by
  rintro ⟨-, hn⟩
  simp [hn] at h

theorem fault_none_of_standsInWb {A : State} {p : MEMWB} (h : StandsInWb A p) (hready : (refNext A).runState = .ready) :
    p.fault = .none := by
  obtain ⟨-, hraise | ⟨i, hc, -, -⟩⟩ := h
  · exact absurd hraise (not_raises_of_ready hready)
  · exact hc.fault

/-- A slot that is tagged before MEM makes no access there (R219). -/
theorem memActive_of_raises {A t : State} {tag : FaultTag} {info : Word} (h : raises A tag info)
    (hf : t.exmem.fault = tag) :
    memActive t = false := by
  simp [memActive, hf, h.1]

section
variable {A : State} {i : Instr}

theorem refNext_of_archTag_none (he : executes A i) (h : archTag A i (wordAt A) = .none) :
    refNext A = completed A i (wordAt A) := by
  rw [he.2, archOutcome, if_pos h]

theorem raises_of_archTag (he : executes A i) (h : archTag A i (wordAt A) ≠ .none) :
    raises A (archTag A i (wordAt A)) (archAlu A i (wordAt A)) :=
  ⟨h, by rw [he.2, archOutcome, if_neg h]⟩

theorem archTag_none_of_ready (he : executes A i) (h : (refNext A).runState = .ready) :
    archTag A i (wordAt A) = .none :=
  by_contra fun hne => not_raises_of_ready h (raises_of_archTag he hne)

/-- What a later instruction reads in the register that `i` writes. -/
theorem readReg_completed (w : Word) {r : RegIdx} (hr : r ≠ 0#5) :
    readReg (completed A i w) r =
      if (decodeControl i).brWr = 1 ∧ fieldRd w = r then archResult A i w else readReg A r := by
  by_cases hb : (decodeControl i).brWr = 1
  · rw [readReg_congr (s := writeReg A (fieldRd w) (archResult A i w)) (if_pos hb), readReg_writeReg]
    simp only [hb, hr, eq_comm (a := r), ne_eq, not_false_eq_true, true_and, and_true]
  · rw [readReg_congr (s := A) (if_neg hb), if_neg (fun h => hb h.1)]

end

/-! ## IF and ID (R214, R215, R221) -/

section
variable {A t : State} {i : Instr}

theorem config_eq (h : programAndConfig t = programAndConfig A) :
    t.imem = A.imem ∧ t.layout = A.layout ∧ t.memSize = A.memSize := by
  simp only [programAndConfig, Prod.mk.injEq] at h
  obtain ⟨himem, -, -, -, -, hlayout, -, hsize⟩ := h
  exact ⟨himem, hlayout, hsize⟩

theorem ifidIn_eq_of_pc (h : programAndConfig t = programAndConfig A) (hpc : t.pc = A.pc) : ifidIn t = ifidIn A := by
  obtain ⟨himem, -, hsize⟩ := config_eq h
  simp only [ifidIn, ifFault, ifFaultInfo, ifInstr, pcPlus4, fetchWord, himem, hpc, hsize]
  rfl

variable (hcfg : programAndConfig t = programAndConfig A) (hl : layoutAdmissible t.layout = true)
include hcfg hl

/-- The stages read the control values of the instruction they hold. -/
theorem ctl_of_carries {fault : FaultTag} {cw : Nat} {rd : RegIdx} (h : Carries A i fault cw rd) :
    ctl t cw = decodeControl i := by
  obtain ⟨-, hlayout, -⟩ := config_eq hcfg
  rw [ctl, h.cw, ← hlayout, unpack_pack_of_admissible hl]

/-- ID decodes what IF fetched, and tags what cannot be decoded. -/
theorem standsInEx_idexIn (hr : A.runState = .ready) (hifid : t.ifid = ifidIn A) : StandsInEx A (idexIn t) := by
  obtain ⟨-, hlayout, -⟩ := config_eq hcfg
  have hvalid : t.ifid.valid = true := by rw [hifid]; rfl
  have hpc : t.ifid.pc = A.pc := by rw [hifid]; rfl
  have hnext : t.ifid.pcPlus4 = A.pc + 4 := by rw [hifid]; rfl
  have hfault : t.ifid.fault = accessFault A.memSize A.pc := by rw [hifid]; rfl
  have hinfo : t.ifid.faultInfo = if accessFault A.memSize A.pc = .none then 0 else A.pc := by rw [hifid]; rfl
  have hword : t.ifid.instr = if accessFault A.memSize A.pc = .none then wordAt A else 0 := by rw [hifid]; rfl
  refine ⟨hpc, hnext, ?_⟩
  obtain ⟨hbad, hraise⟩ | ⟨hok, ⟨why, hw⟩, hraise⟩ | ⟨i, he⟩ := refNext_cases hr
  · have hid : idOk t = false := by simp [idOk, hfault, hbad]
    rw [if_neg hbad] at hinfo
    left
    simpa [idexIn, idFault, idFaultInfo, cwId, hid, hfault, hinfo] using hraise
  · have hid : idOk t = true := by simp [idOk, hvalid, hfault, hok]
    rw [if_pos hok] at hword
    left
    simpa [idexIn, idFault, idFaultInfo, cwId, controlWord, idDecoded, hid, hword, hw] using hraise
  · obtain ⟨⟨hok, hd⟩, -⟩ := id he
    have hid : idOk t = true := by simp [idOk, hvalid, hfault, hok]
    rw [if_pos hok] at hword
    have hcarries : Carries A i (idFault t) (cwId t) (fieldRd t.ifid.instr) := by
      refine ⟨he, ?_, ?_, by rw [hword]⟩
      · simp [idFault, idDecoded, hid, hword, hd]
      · simp [cwId, controlWord, idDecoded, hid, hword, hd, hlayout]
    have himm : immExt t = archImm i (wordAt A) := by rw [immExt, ctl_of_carries hcfg hl hcarries, hword, archImm]
    exact .inr ⟨i, hcarries, by rw [← hword]; rfl, by rw [← hword]; rfl, himm⟩

/-! ## EX (R216 to R218) -/

/-- The operands that the slot in EX uses have the values of the registers of `A`. -/
structure OperandsFrom (A t : State) : Prop where
  srcA      : useA t = true → srcA t = readReg A t.idex.rs1Idx
  regB      : useB t = true → regB t = readReg A t.idex.rs2Idx
  writeData : useM t = true → writeData t = readReg A t.idex.rs2Idx

theorem aluResult_of_standsInEx (hv : t.idex.valid = true) (hop : OperandsFrom A t)
    (hc : Carries A i t.idex.fault t.idex.cw t.idex.rd) (h1 : t.idex.rs1Idx = fieldRs1 (wordAt A))
    (h2 : t.idex.rs2Idx = fieldRs2 (wordAt A)) (himm : t.idex.imm = archImm i (wordAt A))
    (hj : (decodeControl i).pcSrc ≠ 3) : aluResult t = archAlu A i (wordAt A) := by
  have hctl : exCtl t = decodeControl i := ctl_of_carries hcfg hl hc
  have hex : exValid t = true := by simp [exValid, hv, hc.fault]
  have ha : srcA t = readReg A (fieldRs1 (wordAt A)) := by
    rw [hop.srcA (by simp [useA, hex, hctl, hj]), h1]
  have hb : srcB t =
      if (decodeControl i).aluSrc = 1 then archImm i (wordAt A) else readReg A (fieldRs2 (wordAt A)) := by
    rw [srcB, hctl, himm]
    obtain h0 | h0 := decodeControl_aluSrc i
    · rw [hop.regB (by simp [useB, hex, hctl, hj, h0]), h2]
    · simp [h0]
  rw [aluResult, hctl, ha, hb, archAlu]

/-- EX hands on the instruction with its result, and finds the next address. -/
theorem standsInMem_exmemIn (hv : t.idex.valid = true) (h : StandsInEx A t.idex) (hop : OperandsFrom A t) :
    StandsInMem A (exmemIn t) ∧
    ((refNext A).runState = .ready → (refNext A).pc = if branchTaken t then pcTarget t else A.pc + 4) := by
  obtain ⟨hpc, hnext, ⟨hraise, hcw⟩ | ⟨i, hc, h1, h2, himm⟩⟩ := h
  · exact ⟨⟨hpc, hnext, .inl ⟨hraise, hcw⟩⟩, fun hr => absurd hraise (not_raises_of_ready hr)⟩
  · have halu := aluResult_of_standsInEx hcfg hl hv hop hc h1 h2 himm
    have hctl : exCtl t = decodeControl i := ctl_of_carries hcfg hl hc
    have hex : exValid t = true := by simp [exValid, hv, hc.fault]
    refine ⟨⟨hpc, hnext, .inr ⟨i, ⟨hc.executes, hc.fault, hc.cw, hc.rd⟩, halu, fun hm => ?_⟩⟩, fun hr => ?_⟩
    · have := hop.writeData (by simp [useM, hex, hctl, hm])
      rw [← h2]; exact this
    · rw [refNext_of_archTag_none hc.executes (archTag_none_of_ready hc.executes hr)]
      simp only [completed, archPc, branchTaken_eq, pcTarget, pcBranch, hctl, hex, hpc, himm, Bool.true_and]
      by_cases hj : (decodeControl i).pcSrc = 3
      · simp [hj, transfers]
      · rw [halu hj]

/-! ## MEM (R219, R220) -/

/-- MEM makes the instruction's access, with the outcome that the reference finds. -/
theorem memFault_of_carries (hv : t.exmem.valid = true) (hc : Carries A i t.exmem.fault t.exmem.cw t.exmem.rd)
    (halu : (decodeControl i).pcSrc ≠ 3 → t.exmem.aluResult = archAlu A i (wordAt A)) :
    memActive t = accesses i ∧ memFault t = archTag A i (wordAt A) := by
  obtain ⟨-, -, hsize⟩ := config_eq hcfg
  have hactive : memActive t = accesses i := by
    simp [memActive, memIsLoad, memIsStore, accesses, hv, hc.fault, ctl_of_carries hcfg hl hc]
  refine ⟨hactive, ?_⟩
  rw [memFault, archTag, hactive]
  by_cases hacc : accesses i = true
  · rw [if_pos hacc, if_pos hacc, halu (pcSrc_of_accesses i hacc), hsize]
  · rw [if_neg hacc, if_neg hacc, hc.fault]

/-- MEM hands on the instruction with the word it loaded or the fault of its access, and stores its word. -/
theorem standsInWb_memwbIn (hv : t.exmem.valid = true) (h : StandsInMem A t.exmem) (hdmem : t.dmem = A.dmem) :
    StandsInWb A (memwbIn t) ∧ dmemNext t = (refNext A).dmem := by
  obtain ⟨hpc, hnext, ⟨hraise, -⟩ | ⟨i, hc, halu, hdata⟩⟩ := h
  · have hidle := memActive_of_raises hraise rfl
    refine ⟨⟨hpc, .inl ?_⟩, ?_⟩
    · simpa [memwbIn, memFault, memFaultInfo, hidle] using hraise
    · simp [dmemNext, memStores, hidle, hraise.2, hdmem]
  · obtain ⟨hactive, htag⟩ := memFault_of_carries hcfg hl hv hc halu
    have hctl := ctl_of_carries hcfg hl hc
    by_cases hok : archTag A i (wordAt A) = .none
    · rw [hok] at htag
      refine ⟨⟨hpc, .inr ⟨i, ⟨hc.executes, htag, hc.cw, hc.rd⟩, hok, fun hb => ?_⟩⟩, ?_⟩
      · simp only [memwbIn, archResult, selectResult, hnext]
        by_cases hload : (decodeControl i).resSrc = 1
        · have hacc : accesses i = true := by simp [accesses, hload]
          simp [hload, memData, hactive, hacc, htag, memIsLoad, hctl, loadWord, hdmem,
            halu (pcSrc_of_accesses i hacc)]
        · by_cases hlink : (decodeControl i).resSrc = 2
          · simp [hlink]
          · simp [hload, hlink, halu (fun hj => hlink (resSrc_of_pcSrc_three i hj))]
      · rw [refNext_of_archTag_none hc.executes hok]
        by_cases hm : (decodeControl i).memWr = 1
        · have hacc : accesses i = true := by simp [accesses, hm]
          simp [dmemNext, memStores, hactive, hacc, htag, memIsStore, hctl, hm, completed, hdmem, hdata hm,
            halu (pcSrc_of_accesses i hacc)]
        · simp [dmemNext, memStores, memIsStore, hctl, hm, completed, hdmem]
    · have hraise := raises_of_archTag hc.executes hok
      have hacc : accesses i = true := by
        by_contra hacc
        exact hok (if_neg hacc)
      rw [← htag] at hok hraise
      have hinfo : memFaultInfo t = archAlu A i (wordAt A) := by
        simp [memFaultInfo, hactive, hacc, hok, halu (pcSrc_of_accesses i hacc)]
      rw [← hinfo] at hraise
      exact ⟨⟨hpc, .inl hraise⟩, by simp [dmemNext, memStores, hok, hraise.2, hdmem]⟩

/-- What the instruction in MEM will write, as forwarding takes it from EX/MEM; the word of a load is not there yet
(47_hazard_forwarding.md R272, R276). -/
theorem readReg_refNext_of_standsInMem (hv : t.exmem.valid = true) (h : StandsInMem A t.exmem)
    (hready : (refNext A).runState = .ready) {r : RegIdx} (hr : r ≠ 0#5)
    (hload : slotWrites t t.exmem.valid t.exmem.cw t.exmem.rd r = true → (ctl t t.exmem.cw).resSrc ≠ 1) :
    readReg (refNext A) r =
      if slotWrites t t.exmem.valid t.exmem.cw t.exmem.rd r = true then fwdMem t else readReg A r := by
  obtain ⟨-, hnext, ⟨hraise, -⟩ | ⟨i, hc, halu, -⟩⟩ := h
  · exact absurd hraise (not_raises_of_ready hready)
  · have hctl := ctl_of_carries hcfg hl hc
    rw [refNext_of_archTag_none hc.executes (archTag_none_of_ready hc.executes hready), readReg_completed _ hr]
    simp only [slotWrites_iff, hv, hctl, hc.rd, true_and] at hload ⊢
    by_cases hw : (decodeControl i).brWr = 1 ∧ fieldRd (wordAt A) = r
    · rw [if_pos hw, if_pos hw, archResult, selectResult, if_neg (hload hw), fwdMem, hctl, hnext]
      by_cases hlink : (decodeControl i).resSrc = 2
      · rw [if_pos hlink, if_pos hlink]
      · rw [if_neg hlink, if_neg hlink, halu (fun hj => hlink (resSrc_of_pcSrc_three i hj))]
    · rw [if_neg hw, if_neg hw]

/-! ## WB (R213, R222, R227) -/

/-- A slot in WB that carries no tag has been completed by the reference, and `Result` is what it writes. -/
theorem completed_of_standsInWb (h : StandsInWb A t.memwb) (hf : t.memwb.fault = .none) :
    ∃ i, refNext A = completed A i (wordAt A) ∧ ctl t t.memwb.cw = decodeControl i ∧
      t.memwb.rd = fieldRd (wordAt A) ∧ ((decodeControl i).brWr = 1 → wbResult t = archResult A i (wordAt A)) := by
  obtain ⟨-, hraise | ⟨i, hc, hok, hres⟩⟩ := h
  · exact absurd hf hraise.1
  · have hctl := ctl_of_carries hcfg hl hc
    exact ⟨i, refNext_of_archTag_none hc.executes hok, hctl, hc.rd, fun hb => by rw [wbResult_eq, hctl, hres hb]⟩

/-- The register file after the edge is the reference's. -/
theorem regsNext_of_standsInWb (hv : t.memwb.valid = true) (h : StandsInWb A t.memwb) (hf : t.memwb.fault = .none)
    (hregs : t.regs = A.regs) : regsNext t = (refNext A).regs := by
  obtain ⟨i, hn, hctl, hrd, hres⟩ := completed_of_standsInWb hcfg hl h hf
  rw [hn, regsNext]
  by_cases hb : (decodeControl i).brWr = 1
  · by_cases h0 : fieldRd (wordAt A) = 0#5
    · simp [wbEn, hctl, hb, hrd, h0, completed, writeReg, hregs]
    · simp [wbEn, hv, hctl, hb, hrd, h0, completed, writeReg, hregs, hres hb]
  · simp [wbEn, hctl, hb, completed, hregs]

/-- What the instruction in WB writes, as forwarding takes it from MEM/WB. -/
theorem readReg_refNext_of_standsInWb (hv : t.memwb.valid = true) (h : StandsInWb A t.memwb)
    (hf : t.memwb.fault = .none) {r : RegIdx} (hr : r ≠ 0#5) :
    readReg (refNext A) r =
      if slotWrites t t.memwb.valid t.memwb.cw t.memwb.rd r = true then wbResult t else readReg A r := by
  obtain ⟨i, hn, hctl, hrd, hres⟩ := completed_of_standsInWb hcfg hl h hf
  rw [hn, readReg_completed _ hr]
  simp only [slotWrites_iff, hv, hctl, hrd, true_and]
  by_cases hw : (decodeControl i).brWr = 1 ∧ fieldRd (wordAt A) = r
  · rw [if_pos hw, if_pos hw, hres hw.1]
  · rw [if_neg hw, if_neg hw]

end

end Sys2Proof.Machine
end

section
/-! Facts for 47_hazard_forwarding.md: the operands of the instruction in EX are the register values that the reference
has in front of it (R263, R264, R270 to R279; 46_pipeline_stages.md R214). -/

namespace Sys2Proof.Machine

/-! ## States of the reference on the way -/

/-- The reference state after the slot at hand, if it holds an instruction. -/
def passed (valid : Bool) (A : State) : State := if valid then refNext A else A

@[simp] theorem passed_false (A : State) : passed false A = A := rfl
@[simp] theorem passed_true (A : State) : passed true A = refNext A := rfl

theorem programAndConfig_passed (valid : Bool) (A : State) : programAndConfig (passed valid A) = programAndConfig A := by
  cases valid with
  | false => rfl
  | true => exact programAndConfig_refNext A

/-- The reference does not come back from a fault (R211). -/
theorem ready_of_refNext_ready {A : State} (hA : A.runState = .ready ∨ A.runState = .haltedFault)
    (h : (refNext A).runState = .ready) : A.runState = .ready := by
  obtain hA | hA := hA
  · exact hA
  · rwa [refNext_of_halted hA] at h

theorem runState_refNext {A : State} (hA : A.runState = .ready ∨ A.runState = .haltedFault) :
    (refNext A).runState = .ready ∨ (refNext A).runState = .haltedFault := by
  obtain hr | hh := hA
  · obtain ⟨-, -, hn⟩ | ⟨-, -, -, hn⟩ | ⟨i, -, hn⟩ := refNext_cases hr
    · exact .inr (by rw [hn]; rfl)
    · exact .inr (by rw [hn]; rfl)
    · rw [hn, archOutcome]
      split
      · exact .inl hr
      · exact .inr rfl
  · exact .inr (by rwa [refNext_of_halted hh])

/-! ## No wrong operand (47_hazard_forwarding.md R263, R264) -/

/-- The instruction in EX uses the register `r`. -/
def usesInEx (t : State) (r : RegIdx) : Prop :=
  (useA t = true ∧ t.idex.rs1Idx = r) ∨ ((useB t = true ∨ useM t = true) ∧ t.idex.rs2Idx = r)

/-- What the hazard detector leaves to EX: with forwarding on, no used register waits for a load in MEM; with forwarding
off, none waits for anything in MEM or WB. -/
def HazardFree (t : State) : Prop :=
  ∀ r, r ≠ 0#5 → usesInEx t r →
    (slotWrites t t.exmem.valid t.exmem.cw t.exmem.rd r = true →
      effForwarding t = true ∧ (ctl t t.exmem.cw).resSrc ≠ 1) ∧
    (slotWrites t t.memwb.valid t.memwb.cw t.memwb.rd r = true → effForwarding t = true)

/-- Nearest stage first (R271). -/
theorem selector_eq {t : State} {r : RegIdx} (hr : r ≠ 0#5) (hf : effForwarding t = true) :
    selector t true r =
      if slotWrites t t.exmem.valid t.exmem.cw t.exmem.rd r = true then .fromExMem
      else if slotWrites t t.memwb.valid t.memwb.cw t.memwb.rd r = true then .fromMemWb else .noForward := by
  simp only [selector, slotWrites, hf, Bool.not_true, Bool.false_or, beq_iff_eq, hr, if_false]
  rfl

section
variable {A t : State} (hcfg : programAndConfig t = programAndConfig A) (hl : layoutAdmissible t.layout = true)
  (hwb : t.memwb.valid = true → StandsInWb A t.memwb)
  (hmem : t.exmem.valid = true → StandsInMem (passed t.memwb.valid A) t.exmem)
  (hready : (passed t.memwb.valid A).runState = .ready)
  (hready' : (passed t.exmem.valid (passed t.memwb.valid A)).runState = .ready)
include hcfg hl

include hwb hready in
theorem readReg_passed_wb {r : RegIdx} (hr : r ≠ 0#5) :
    readReg (passed t.memwb.valid A) r =
      if slotWrites t t.memwb.valid t.memwb.cw t.memwb.rd r = true then wbResult t else readReg A r := by
  cases hv : t.memwb.valid with
  | false => simp [slotWrites]
  | true =>
    rw [hv] at hready
    have h := readReg_refNext_of_standsInWb hcfg hl hv (hwb hv) (fault_none_of_standsInWb (hwb hv) hready) hr
    rwa [hv] at h

include hmem hready' in
theorem readReg_passed_mem {r : RegIdx} (hr : r ≠ 0#5)
    (hload : slotWrites t t.exmem.valid t.exmem.cw t.exmem.rd r = true → (ctl t t.exmem.cw).resSrc ≠ 1) :
    readReg (passed t.exmem.valid (passed t.memwb.valid A)) r =
      if slotWrites t t.exmem.valid t.exmem.cw t.exmem.rd r = true then fwdMem t
      else readReg (passed t.memwb.valid A) r := by
  cases hv : t.exmem.valid with
  | false => simp [slotWrites]
  | true =>
    rw [hv] at hready'
    have hcfg' := hcfg.trans (programAndConfig_passed t.memwb.valid A).symm
    have h := readReg_refNext_of_standsInMem hcfg' hl hv (hmem hv) hready' hr hload
    rwa [hv] at h

include hwb hmem hready hready'

/-- A forwarding multiplexer gives the value of the youngest older producer (R271 to R273). -/
theorem forwardMux_eq_readReg (hregs : t.regs = A.regs) (hfree : HazardFree t) {r : RegIdx} (huse : usesInEx t r) :
    forwardMux t (selector t true r) (readReg t r) =
      readReg (passed t.exmem.valid (passed t.memwb.valid A)) r := by
  by_cases hr : r = 0#5
  · subst hr; simp [selector, forwardMux]
  · obtain ⟨hx, hm⟩ := hfree r hr huse
    rw [readReg_passed_mem hcfg hl hmem hready' hr (fun h => (hx h).2), readReg_passed_wb hcfg hl hwb hready hr,
      readReg_congr hregs]
    cases hf : effForwarding t with
    | true =>
      rw [selector_eq hr hf]
      split_ifs <;> rfl
    | false =>
      rw [if_neg (fun h => by simpa [hf] using (hx h).1), if_neg (fun h => by simpa [hf] using hm h)]
      simp [selector, hf, forwardMux]

/-- The instruction in EX gets its operands as the reference has them (R279). -/
theorem operandsFrom_of_hazardFree (hregs : t.regs = A.regs) (hfree : HazardFree t)
    (hA : t.idex.opA = readReg t t.idex.rs1Idx) (hB : t.idex.opB = readReg t t.idex.rs2Idx) :
    OperandsFrom (passed t.exmem.valid (passed t.memwb.valid A)) t := by
  have hmux := fun r => forwardMux_eq_readReg (r := r) hcfg hl hwb hmem hready hready' hregs hfree
  refine ⟨fun h => ?_, fun h => ?_, fun h => ?_⟩
  · rw [srcA, controlForwardA, h, hA, hmux _ (.inl ⟨h, rfl⟩)]
  · rw [regB, controlForwardB, h, hB, hmux _ (.inr ⟨.inl h, rfl⟩)]
  · rw [writeData, controlForwardM, h, hB, hmux _ (.inr ⟨.inr h, rfl⟩)]

end

/-- With nothing in MEM and WB the operands are those that ID read. -/
theorem operandsFrom_of_no_producers {A t : State} (hx : t.exmem.valid = false) (hm : t.memwb.valid = false)
    (hregs : t.regs = A.regs) (hA : t.idex.opA = readReg t t.idex.rs1Idx) (hB : t.idex.opB = readReg t t.idex.rs2Idx) :
    OperandsFrom A t := by
  have hmux : ∀ use r, forwardMux t (selector t use r) (readReg t r) = readReg A r := fun use r => by
    have : selector t use r = .noForward := by simp [selector, hx, hm]
    rw [this, forwardMux, readReg_congr hregs]
  refine ⟨fun _ => ?_, fun _ => ?_, fun _ => ?_⟩
  · rw [srcA, hA]; exact hmux _ _
  · rw [regB, hB]; exact hmux _ _
  · rw [writeData, hB]; exact hmux _ _

end Sys2Proof.Machine
end

section
/-! Proofs for 46_pipeline_stages.md: one fetched instruction has its own effect on its way through an empty pipeline
(R230). -/

namespace Sys2Proof.Machine

/-! ## Edges that commit nothing (R227) -/

/-- The edge with no instruction in WB writes no register, and with none in MEM no byte (R227). -/
theorem regsNext_of_bubble {t : State} (h : t.memwb.valid = false) : regsNext t = t.regs := by
  simp [regsNext, wbEn, h]

theorem dmemNext_of_bubble {t : State} (h : t.exmem.valid = false) : dmemNext t = t.dmem := by
  simp [dmemNext, memStores, memActive, h]

/-- The block `t` has come from `s` by edges that retired nothing and stored nothing. -/
structure Untouched (s t : State) : Prop where
  config   : programAndConfig t = programAndConfig s
  run      : t.runState = .ready
  record   : t.faultRecord = s.faultRecord
  regs     : t.regs = s.regs
  dmem     : t.dmem = s.dmem
  noRetire : t.memwb.valid = false

section
variable {s t : State}

theorem Untouched.tick_eq (h : Untouched s t) : tick t = clockEdge t :=
  tick_of_edge (by simp [h.run]) (by simp [haltTick, h.noRetire])

theorem Untouched.clockEdge (h : Untouched s t) (hx : t.exmem.valid = false) : Untouched s (clockEdge t) where
  config   := h.config
  run      := rfl
  record   := h.record
  regs     := (regsNext_of_bubble h.noRetire).trans h.regs
  dmem     := (dmemNext_of_bubble hx).trans h.dmem
  noRetire := hx

end

/-- After the first edge: the word at the reference's pc stands in ID. -/
structure AloneInId (s t : State) : Prop extends Untouched s t where
  slot      : t.ifid = ifidIn s
  emptyEx   : t.idex.valid = false
  emptyMem  : t.exmem.valid = false

/-- After the second edge: the instruction stands in EX with its operands. -/
structure AloneInEx (s t : State) : Prop extends Untouched s t where
  valid    : t.idex.valid = true
  slot     : StandsInEx s t.idex
  operands : OperandsFrom s t
  emptyMem : t.exmem.valid = false

/-- After the third edge: the instruction stands in MEM. -/
structure AloneInMem (s t : State) : Prop extends Untouched s t where
  valid : t.exmem.valid = true
  slot  : StandsInMem s t.exmem

section
variable {s t : State}

theorem aloneInId_clockEdge (hs : Claims.startsClean s) : AloneInId s (clockEdge s) := by
  obtain ⟨-, ⟨hifid, hidex, hexmem, hmemwb⟩, hready⟩ := hs
  have hd : s.idex.valid = false := by rw [hidex]; rfl
  have hx : s.exmem.valid = false := by rw [hexmem]; rfl
  have hm : s.memwb.valid = false := by rw [hmemwb]; rfl
  have hbase : Untouched s s := ⟨rfl, hready, rfl, rfl, rfl, hm⟩
  obtain ⟨hnext, hbubble⟩ := frontEnd_of_empty hd hx
  refine ⟨hbase.clockEdge hx, hnext, ?_, hd⟩
  rw [clockEdge_idex, hbubble]
  simp [idexIn, hifid, IFID.zero]

theorem AloneInId.clockEdge (h : AloneInId s t) (hready : s.runState = .ready)
    (hl : layoutAdmissible s.layout = true) : AloneInEx s (clockEdge t) := by
  have hl' : layoutAdmissible t.layout = true := by rwa [(config_eq h.config).2.1]
  have hbase := h.toUntouched.clockEdge h.emptyMem
  have hidex : (Machine.clockEdge t).idex = idexIn t := (frontEnd_of_empty h.emptyEx h.emptyMem).2
  have hread := rfRead_eq_readReg_clockEdge (s := t) (by simp [haltTick, h.noRetire])
  have hx : (Machine.clockEdge t).exmem.valid = false := h.emptyEx
  refine ⟨hbase, ?_, ?_, ?_, hx⟩
  · rw [hidex]; simp [idexIn, h.slot, ifidIn]
  · rw [hidex]; exact standsInEx_idexIn h.config hl' hready h.slot
  · exact operandsFrom_of_no_producers hx hbase.noRetire hbase.regs (by rw [hidex]; exact hread _)
      (by rw [hidex]; exact hread _)

/-- The third tick executes the instruction, and a taken transfer redirects pc (R217, R223). -/
theorem AloneInEx.clockEdge (h : AloneInEx s t) (hl : layoutAdmissible s.layout = true) :
    AloneInMem s (clockEdge t) ∧
      ((refNext s).runState = .ready → (refNext s).pc ≠ s.pc + 4 → (clockEdge t).pc = (refNext s).pc) := by
  have hl' : layoutAdmissible t.layout = true := by rwa [(config_eq h.config).2.1]
  obtain ⟨hslot, hpc⟩ := standsInMem_exmemIn h.config hl' h.valid h.slot h.operands
  refine ⟨⟨h.toUntouched.clockEdge h.emptyMem, h.valid, hslot⟩, fun hready hne => ?_⟩
  have htarget := hpc hready
  cases hb : branchTaken t with
  | true => rw [htarget, hb]; simp [pcNext, hb]
  | false => exact absurd (by simpa [hb] using htarget) hne

end

/-- The fifth tick of an instruction, when it stands in WB: it retires, or its fault is taken. -/
theorem tick_of_standsInWb {A t : State} (hcfg : programAndConfig t = programAndConfig A)
    (hl : layoutAdmissible t.layout = true) (hready : A.runState = .ready) (hrun : t.runState = .ready)
    (hregs : t.regs = A.regs) (hrecord : t.faultRecord = A.faultRecord) (hv : t.memwb.valid = true)
    (h : StandsInWb A t.memwb) :
    (tick t).regs = (refNext A).regs ∧ (tick t).runState = (refNext A).runState ∧
      (tick t).faultRecord = (refNext A).faultRecord := by
  have hnot : t.runState ≠ .haltedFault := by simp [hrun]
  by_cases hf : t.memwb.fault = .none
  · obtain ⟨i, hn, -⟩ := completed_of_standsInWb hcfg hl h hf
    rw [tick_of_edge hnot (by simp [haltTick, hf])]
    exact ⟨regsNext_of_standsInWb hcfg hl hv h hf hregs, by rw [hn]; exact hready.symm, by rw [hn]; exact hrecord⟩
  · obtain ⟨hpc, ⟨-, hn⟩ | ⟨i, hc, -⟩⟩ := h
    · rw [tick_of_haltTick hnot ((haltTick_iff t).2 ⟨hv, hf⟩), hn, hpc]
      exact ⟨hregs, rfl, rfl⟩
    · exact absurd hc.fault hf

/-- Settles O22: the instruction meets no producer on its way, and each stage does for it what the reference does. -/
theorem pipelineRunsFetchedInstruction : Obligations.PipelineRunsFetchedInstruction := by
  intro s i hs hfetch hd
  obtain ⟨hticking, -, hready⟩ := id hs
  have hl : layoutAdmissible s.layout = true := hticking.2
  obtain ⟨-, hnext⟩ := executes_of_fetches hready ⟨(fetchable_iff_accessFault_none s).1 hfetch, hd⟩
  have h1 := aloneInId_clockEdge hs
  have h2 := h1.clockEdge hready hl
  obtain ⟨h3, hpc⟩ := h2.clockEdge hl
  have e1 : ticks 1 s = clockEdge s := tick_of_startsClean hs
  have e2 : ticks 2 s = clockEdge (clockEdge s) := by rw [ticks_succ, e1, h1.tick_eq]
  have e3 : ticks 3 s = clockEdge (clockEdge (clockEdge s)) := by rw [ticks_succ, e2, h2.tick_eq]
  have e4 : ticks 4 s = clockEdge (ticks 3 s) := by rw [ticks_succ, e3, h3.tick_eq]
  rw [← e3] at h3 hpc
  have hl3 : layoutAdmissible (ticks 3 s).layout = true := (ticking_ticks hticking 3).2
  obtain ⟨hslot, hdmem⟩ := standsInWb_memwbIn h3.config hl3 h3.valid h3.slot h3.dmem
  have hregs : (clockEdge (ticks 3 s)).regs = s.regs := (regsNext_of_bubble h3.noRetire).trans h3.regs
  have hfifth := tick_of_standsInWb (t := clockEdge (ticks 3 s)) h3.config hl3 hready rfl hregs h3.record h3.valid hslot
  refine ⟨refNext s, ticks 3 s, clockEdge (ticks 3 s), tick (clockEdge (ticks 3 s)), ?_, ?_, ?_, ?_, hpc, hdmem, hregs,
    h3.valid, hslot.pc, hfifth⟩
  · rw [hnext]; exact exec_of_decode hd
  · exact (stepsTo_iff_eq_ticks hticking 3).2 rfl
  · rw [← h3.tick_eq]; exact step_of_ticking (ticking_ticks hticking 3)
  · rw [← e4]; exact step_of_ticking (ticking_ticks hticking 4)

end Sys2Proof.Machine
end

section
/-! Facts for 46_pipeline_stages.md: with stalls and flushes on, each edge keeps the pipeline in step with the reference,
which executes one instruction after another (R231, R232; 47_hazard_forwarding.md R263 to R268). -/

namespace Sys2Proof.Machine

/-! ## Instructions of the reference, one after another -/

theorem sequential_succ (n : Nat) (s : State) : sequential (n + 1) s = refNext (sequential n s) := by
  induction n generalizing s with
  | zero => simp [sequential, referenceStep_eq_next]
  | succ n ih =>
    have hstep : ∀ k, sequential (k + 1) s = sequential k (refNext s) := fun k => by
      simp [sequential, referenceStep_eq_next]
    rw [hstep, ih, hstep]

/-- A reference that has halted stays as it is. -/
theorem sequential_of_halted {s : State} {m n : Nat} (h : (sequential m s).runState = .haltedFault) (hmn : m ≤ n) :
    sequential n s = sequential m s := by
  induction n, hmn using Nat.le_induction with
  | base => rfl
  | succ n _ ih => rw [sequential_succ, ih, refNext_of_halted h]

/-! ## The relation between the block and the reference -/

/-- The reference in front of the instruction in MEM, in EX and in ID, when it is in front of the one in WB at `A`. -/
def beforeMem (A t : State) : State := passed t.memwb.valid A
def beforeEx (A t : State) : State := passed t.exmem.valid (beforeMem A t)
def beforeId (A t : State) : State := passed t.idex.valid (beforeEx A t)

/-- The slots in WB, MEM and EX hold the reference's next instructions, as far as it runs. -/
structure BackEndTracks (A t : State) : Prop where
  ready    : A.runState = .ready
  config   : programAndConfig t = programAndConfig A
  layoutOk : layoutAdmissible t.layout = true
  regs     : t.regs = A.regs
  dmem     : t.dmem = (beforeMem A t).dmem
  wb       : t.memwb.valid = true → StandsInWb A t.memwb
  mem      : t.exmem.valid = true → (beforeMem A t).runState = .ready → StandsInMem (beforeMem A t) t.exmem
  ex       : t.idex.valid = true → (beforeEx A t).runState = .ready → StandsInEx (beforeEx A t) t.idex
  opA      : t.idex.valid = true → t.idex.opA = readReg t t.idex.rs1Idx
  opB      : t.idex.valid = true → t.idex.opB = readReg t t.idex.rs2Idx
  hazards  : HazardFree t

/-- The word in ID is the reference's next one too, unless a transfer is being taken in EX, and pc goes on behind it. -/
structure FrontEndTracks (A t : State) : Prop where
  slot    : t.ifid.valid = true → (beforeId A t).runState = .ready → branchTaken t = false →
    t.ifid = ifidIn (beforeId A t)
  pc      : t.ifid.valid = true → t.pc = t.ifid.pc + 4
  refetch : t.ifid.valid = false → (beforeId A t).runState = .ready → t.pc = (beforeId A t).pc

section
variable {A t : State}

theorem runState_passed {v : Bool} (hA : A.runState = .ready ∨ A.runState = .haltedFault) :
    (passed v A).runState = .ready ∨ (passed v A).runState = .haltedFault := by
  cases v with
  | false => exact hA
  | true => exact runState_refNext hA

theorem ready_of_passed_ready {v : Bool} (hA : A.runState = .ready ∨ A.runState = .haltedFault)
    (h : (passed v A).runState = .ready) : A.runState = .ready := by
  cases v with
  | false => exact h
  | true => exact ready_of_refNext_ready hA h

/-- The instructions in front of a running one have not faulted. -/
theorem BackEndTracks.ready_before (h : BackEndTracks A t) :
    ((beforeId A t).runState = .ready → (beforeEx A t).runState = .ready) ∧
    ((beforeEx A t).runState = .ready → (beforeMem A t).runState = .ready) := by
  have hmem : (beforeMem A t).runState = .ready ∨ (beforeMem A t).runState = .haltedFault :=
    runState_passed (.inl h.ready)
  exact ⟨ready_of_passed_ready (runState_passed hmem), ready_of_passed_ready hmem⟩

theorem BackEndTracks.operands (h : BackEndTracks A t) (hv : t.idex.valid = true)
    (hr : (beforeEx A t).runState = .ready) : OperandsFrom (beforeEx A t) t := by
  have hr' := h.ready_before.2 hr
  exact operandsFrom_of_hazardFree h.config h.layoutOk h.wb (fun hv => h.mem hv hr') hr' hr h.regs h.hazards (h.opA hv)
    (h.opB hv)

theorem BackEndTracks.config_beforeMem (h : BackEndTracks A t) : programAndConfig t = programAndConfig (beforeMem A t) :=
  h.config.trans (programAndConfig_passed _ _).symm

theorem BackEndTracks.config_beforeEx (h : BackEndTracks A t) : programAndConfig t = programAndConfig (beforeEx A t) :=
  h.config_beforeMem.trans (programAndConfig_passed _ _).symm

theorem BackEndTracks.config_beforeId (h : BackEndTracks A t) : programAndConfig t = programAndConfig (beforeId A t) :=
  h.config_beforeEx.trans (programAndConfig_passed _ _).symm

/-- EX finds the address at which the reference goes on (R217). -/
theorem BackEndTracks.pc_beforeId (h : BackEndTracks A t) (hv : t.idex.valid = true)
    (hr : (beforeId A t).runState = .ready) :
    (beforeId A t).pc = if branchTaken t then pcTarget t else t.idex.pc + 4 := by
  have hr' := h.ready_before.1 hr
  have hslot := h.ex hv hr'
  have hpc := (standsInMem_exmemIn h.config_beforeEx h.layoutOk hv hslot (h.operands hv hr')).2
  rw [beforeId, hv, passed_true] at hr ⊢
  rw [hslot.pc]
  exact hpc hr

/-- The edge moves each slot on, and the reference state in front of it with it. -/
theorem beforeEx_clockEdge : beforeEx (beforeMem A t) (clockEdge t) = beforeId A t := rfl

end

/-! ## The hazard detector leaves no unmet dependency (47_hazard_forwarding.md R263, R264, R276) -/

section
variable {t : State}

theorem exists_instr_of_idFault_none (hv : t.ifid.valid = true) (hf : idFault t = .none) :
    ∃ i, idOk t = true ∧ idDecoded t = .instr i := by
  unfold idFault at hf
  cases hok : idOk t with
  | false => simp [idOk, hv, show t.ifid.fault = .none by simpa [hok] using hf] at hok
  | true =>
    cases hd : idDecoded t with
    | instr i => exact ⟨i, rfl, rfl⟩
    | invalid why => simp [hok, hd] at hf

/-- A register that the instruction will use in EX is one that the hazard detector looks at while it stands in ID. -/
theorem uses_of_usesInEx_clockEdge (hl : layoutAdmissible t.layout = true) (hid : idexNext t = idexIn t) {r : RegIdx}
    (hr : r ≠ 0#5) (h : usesInEx (clockEdge t) r) :
    (usesRs1 t = true ∧ fieldRs1 t.ifid.instr = r) ∨ (usesRs2 t = true ∧ fieldRs2 t.ifid.instr = r) := by
  simp only [usesInEx, useA, useB, useM, exValid, exCtl, clockEdge_idex, hid, Bool.and_eq_true, bne_iff_ne,
    beq_iff_eq] at h
  have hslot : t.ifid.valid = true ∧ idFault t = .none := by
    obtain ⟨⟨h, -⟩, -⟩ | ⟨⟨⟨h, -⟩, -⟩ | ⟨h, -⟩, -⟩ := h <;> exact h
  obtain ⟨i, hok, hd⟩ := exists_instr_of_idFault_none hslot.1 hslot.2
  have hctl : ctl (clockEdge t) (idexIn t).cw = decodeControl i := by
    change unpack t.layout (cwId t) = _
    rw [cwId, if_pos hok, hd, controlWord, unpack_pack_of_admissible hl]
  have hformat : idFormat t = some i.format := by simp [idFormat, hok, hd]
  rw [hctl] at h
  simp only [usesRs1, usesRs2, hformat, Option.any_some, Bool.and_eq_true, bne_iff_ne]
  obtain ⟨⟨-, hp⟩, rfl⟩ | ⟨⟨⟨-, hs⟩, hp⟩ | ⟨-, hm⟩, rfl⟩ := h
  · exact .inl ⟨⟨formatHasRs1_of_pcSrc i hp, hr⟩, rfl⟩
  · exact .inr ⟨⟨formatHasRs2_of_aluSrc i hs hp, hr⟩, rfl⟩
  · exact .inr ⟨⟨formatHasRs2_of_memWr i hm, hr⟩, rfl⟩

theorem hazardMatch_of_slotWrites {valid : Bool} {cw : Nat} {rd r : RegIdx} (hr : r ≠ 0#5)
    (huse : (usesRs1 t = true ∧ fieldRs1 t.ifid.instr = r) ∨ (usesRs2 t = true ∧ fieldRs2 t.ifid.instr = r))
    (hw : slotWrites t valid cw rd r = true) : hazardMatch t valid cw rd = true := by
  obtain ⟨hv, hb, rfl⟩ := slotWrites_iff.1 hw
  obtain ⟨hu, hf⟩ | ⟨hu, hf⟩ := huse <;> simp [hazardMatch, hv, hb, hr, hu, hf]

theorem not_usesInEx_of_bubble (h : t.idex.valid = false) {r : RegIdx} : ¬ usesInEx t r := by
  simp [usesInEx, useA, useB, useM, exValid, h]

/-- With stalls on, what moves into EX waits for nothing that forwarding cannot give. -/
theorem hazardFree_clockEdge (hl : layoutAdmissible t.layout = true) (hs : effStalls t = true) :
    HazardFree (clockEdge t) := by
  intro r hr huse
  obtain ⟨-, -, hid⟩ | ⟨-, -, -, hid⟩ | ⟨-, hst, -, hid⟩ := frontEnd_cases t
  · exact absurd huse (not_usesInEx_of_bubble (by rw [clockEdge_idex, hid]; rfl))
  · exact absurd huse (not_usesInEx_of_bubble (by rw [clockEdge_idex, hid]; rfl))
  · have huse' := uses_of_usesInEx_clockEdge hl hid hr huse
    have hneed : needStall t = false := by simpa [stall, hs] using hst
    have hx := hazardMatch_of_slotWrites (valid := t.idex.valid) (cw := t.idex.cw) (rd := t.idex.rd) hr huse'
    have hm := hazardMatch_of_slotWrites (valid := t.exmem.valid) (cw := t.exmem.cw) (rd := t.exmem.rd) hr huse'
    change (slotWrites t t.idex.valid t.idex.cw t.idex.rd r = true →
      effForwarding t = true ∧ (ctl t t.idex.cw).resSrc ≠ 1) ∧
      (slotWrites t t.exmem.valid t.exmem.cw t.exmem.rd r = true → effForwarding t = true)
    rw [needStall] at hneed
    cases hf : effForwarding t with
    | true =>
      refine ⟨fun hw => ⟨rfl, fun hload => ?_⟩, fun _ => rfl⟩
      simp [hf, matchIDEX, hx hw, hload] at hneed
    | false =>
      refine ⟨fun hw => ?_, fun hw => ?_⟩
      · simp [hf, matchIDEX, hx hw] at hneed
      · simp [hf, matchEXMEM, hm hw] at hneed

end

/-! ## An edge keeps the relation -/

/-- The block `t` follows the reference, whose state in front of the next instruction to retire is `A`. -/
structure Tracks (A t : State) : Prop extends BackEndTracks A t, FrontEndTracks A t where
  stalls  : effStalls t = true
  flushes : effFlushes t = true

section
variable {A t : State}

/-- With flushes on, a tick that does not flush takes no transfer. -/
theorem Tracks.branchTaken_eq_false (h : Tracks A t) (hf : flush t = false) : branchTaken t = false := by
  simpa [flush, h.flushes] using hf

/-- WB retires its instruction as the reference does (R213, R227). -/
theorem BackEndTracks.retire (h : BackEndTracks A t) (hhalt : haltTick t = false) :
    (beforeMem A t).runState = .ready ∧ regsNext t = (beforeMem A t).regs := by
  rw [beforeMem]
  cases hv : t.memwb.valid with
  | false => exact ⟨h.ready, (regsNext_of_bubble hv).trans h.regs⟩
  | true =>
    have hf : t.memwb.fault = .none := by simpa [haltTick, hv] using hhalt
    obtain ⟨i, hn, -⟩ := completed_of_standsInWb h.config h.layoutOk (h.wb hv) hf
    exact ⟨by rw [passed_true, hn]; exact h.ready, regsNext_of_standsInWb h.config h.layoutOk hv (h.wb hv) hf h.regs⟩

/-- MEM stores as the reference does (R219, R227). -/
theorem BackEndTracks.dmemNext_eq (h : BackEndTracks A t) (hr : (beforeMem A t).runState = .ready) :
    dmemNext t = (beforeEx A t).dmem := by
  rw [beforeEx]
  cases hv : t.exmem.valid with
  | false => exact (dmemNext_of_bubble hv).trans h.dmem
  | true => exact (standsInWb_memwbIn h.config_beforeMem h.layoutOk hv (h.mem hv hr) h.dmem).2

/-- What moves from ID into EX (R214, R225). -/
theorem Tracks.idexNext_tracks (h : Tracks A t) (hhalt : haltTick t = false) (hv : (idexNext t).valid = true) :
    idexNext t = idexIn t ∧
    ((beforeId A t).runState = .ready → StandsInEx (beforeId A t) (idexNext t)) ∧
    (idexNext t).opA = readReg (clockEdge t) (idexNext t).rs1Idx ∧
    (idexNext t).opB = readReg (clockEdge t) (idexNext t).rs2Idx := by
  obtain ⟨-, -, hid⟩ | ⟨-, -, -, hid⟩ | ⟨hf, -, -, hid⟩ := frontEnd_cases t
  · simp [hid, IDEX.zero] at hv
  · simp [hid, IDEX.zero] at hv
  · rw [hid] at hv ⊢
    refine ⟨rfl, fun hr => ?_, rfRead_eq_readReg_clockEdge hhalt _, rfRead_eq_readReg_clockEdge hhalt _⟩
    exact standsInEx_idexIn h.config_beforeId h.layoutOk hr (h.slot hv hr (h.branchTaken_eq_false hf))

theorem Tracks.backEnd_clockEdge (h : Tracks A t) (hhalt : haltTick t = false) :
    BackEndTracks (beforeMem A t) (clockEdge t) := by
  obtain ⟨hready, hregs⟩ := h.retire hhalt
  exact
    { ready := hready
      config := h.config_beforeMem
      layoutOk := h.layoutOk
      regs := hregs
      dmem := h.dmemNext_eq hready
      wb := fun hv => (standsInWb_memwbIn h.config_beforeMem h.layoutOk hv (h.mem hv hready) h.dmem).1
      mem := fun hv hr =>
        (standsInMem_exmemIn h.config_beforeEx h.layoutOk hv (h.ex hv hr) (h.operands hv hr)).1
      ex := fun hv => (h.idexNext_tracks hhalt hv).2.1
      opA := fun hv => (h.idexNext_tracks hhalt hv).2.2.1
      opB := fun hv => (h.idexNext_tracks hhalt hv).2.2.2
      hazards := hazardFree_clockEdge h.layoutOk h.stalls }

/-- The address that IF presents next is the reference's, unless the slot that moves into EX takes a transfer. -/
theorem Tracks.pc_of_fetch (h : Tracks A t) (hhalt : haltTick t = false)
    (hid : idexNext t = idexIn t) (hr : (passed (idexIn t).valid (beforeId A t)).runState = .ready)
    (hb : branchTaken (clockEdge t) = false) : t.pc = (passed (idexIn t).valid (beforeId A t)).pc := by
  have hback := h.backEnd_clockEdge hhalt
  cases hv : t.ifid.valid with
  | false =>
    have hv' : (idexIn t).valid = false := hv
    rw [hv'] at hr ⊢
    exact h.refetch hv hr
  | true =>
    have hpc := hback.pc_beforeId (by rw [clockEdge_idex, hid]; exact hv)
      (by rw [beforeId, beforeEx_clockEdge, clockEdge_idex, hid]; exact hr)
    rw [beforeId, beforeEx_clockEdge, clockEdge_idex, hid, hb] at hpc
    rw [hpc]
    exact h.pc hv

theorem Tracks.frontEnd_clockEdge (h : Tracks A t) (hhalt : haltTick t = false) :
    FrontEndTracks (beforeMem A t) (clockEdge t) := by
  have hbefore : beforeId (beforeMem A t) (clockEdge t) = passed (idexNext t).valid (beforeId A t) := rfl
  obtain ⟨hf, hifid, hid⟩ | ⟨hf, hst, hifid, hid⟩ | ⟨hf, hst, hifid, hid⟩ := frontEnd_cases t
  · have hb := branchTaken_of_flush hf
    have hsame : beforeId (beforeMem A t) (clockEdge t) = beforeId A t := by rw [hbefore, hid]; rfl
    refine ⟨fun hv => ?_, fun hv => ?_, fun _ hr => ?_⟩
    · simp [hifid, IFID.zero] at hv
    · simp [hifid, IFID.zero] at hv
    · rw [hsame] at hr ⊢
      rw [h.pc_beforeId (idex_valid_of_branchTaken hb) hr, hb]
      simp [pcNext, hb]
  · have hb := h.branchTaken_eq_false hf
    have hsame : beforeId (beforeMem A t) (clockEdge t) = beforeId A t := by rw [hbefore, hid]; rfl
    have hpc : (clockEdge t).pc = t.pc := by simp [pcNext, hb, hst]
    have hi : (Machine.clockEdge t).ifid = t.ifid := hifid
    refine ⟨fun hv hr _ => ?_, fun hv => ?_, fun hv hr => ?_⟩
    · rw [hsame] at hr ⊢
      rw [hi] at hv ⊢
      exact h.slot hv hr hb
    · rw [hi] at hv ⊢
      rw [hpc, h.pc hv]
    · rw [hsame] at hr ⊢
      rw [hi] at hv
      rw [hpc, h.refetch hv hr]
  · have hb := h.branchTaken_eq_false hf
    have hi : (Machine.clockEdge t).ifid = ifidIn t := hifid
    rw [hid] at hbefore
    refine ⟨fun _ hr hb' => ?_, fun _ => ?_, fun hv => ?_⟩
    · rw [hbefore] at hr ⊢
      rw [hi]
      exact ifidIn_eq_of_pc (h.config_beforeId.trans (programAndConfig_passed _ _).symm)
        (h.pc_of_fetch hhalt hid hr hb')
    · rw [hi]
      simp [pcNext, hb, hst, pcPlus4, ifidIn]
    · simp [hifid, ifidIn] at hv

theorem Tracks.clockEdge (h : Tracks A t) (hhalt : haltTick t = false) : Tracks (beforeMem A t) (clockEdge t) :=
  { h.backEnd_clockEdge hhalt, h.frontEnd_clockEdge hhalt with
    stalls := h.stalls
    flushes := h.flushes }

/-- An empty pipeline follows the reference that starts in the same state. -/
theorem tracks_of_startsClean {s : State} (hs : Claims.startsClean s) (hst : effStalls s = true)
    (hfl : effFlushes s = true) : Tracks s s := by
  obtain ⟨⟨-, hl⟩, ⟨hifid, hidex, hexmem, hmemwb⟩, hready⟩ := hs
  have hi : s.ifid.valid = false := by rw [hifid]; rfl
  have hd : s.idex.valid = false := by rw [hidex]; rfl
  have hx : s.exmem.valid = false := by rw [hexmem]; rfl
  have hm : s.memwb.valid = false := by rw [hmemwb]; rfl
  have hmem : beforeMem s s = s := by simp [beforeMem, hm]
  have hid : beforeId s s = s := by simp [beforeId, beforeEx, hmem, hd, hx]
  exact
    { ready := hready
      config := rfl
      layoutOk := hl
      regs := rfl
      dmem := by rw [hmem]
      wb := fun hv => by simp [hm] at hv
      mem := fun hv => by simp [hx] at hv
      ex := fun hv => by simp [hd] at hv
      opA := fun hv => by simp [hd] at hv
      opB := fun hv => by simp [hd] at hv
      hazards := fun r _ huse => absurd huse (not_usesInEx_of_bubble hd)
      slot := fun hv => by simp [hi] at hv
      pc := fun hv => by simp [hi] at hv
      refetch := fun _ _ => by rw [hid]
      stalls := hst
      flushes := hfl }

end

end Sys2Proof.Machine
end

section
/-! Proofs for 46_pipeline_stages.md: every number of ticks has committed what the reference commits, and both halt
together (R231, R232; 70_reset_and_hazards.md R384). -/

namespace Sys2Proof.Machine

/-! ## Every number of ticks (R232) -/

/-- The block is running, or the slot in WB has halted it (R222). -/
def haltsOnlyAtWb (t : State) : Prop :=
  t.runState = .ready ∨
    (t.runState = .haltedFault ∧ haltTick t = true ∧
      t.faultRecord = ⟨t.memwb.fault, t.memwb.pc, t.memwb.faultInfo⟩)

/-- `t` has retired `k` instructions more than `s`, and follows the reference after `k`. -/
structure Follows (s t : State) (k : Nat) : Prop where
  retired : t.retiredCount = s.retiredCount + k
  tracks  : Tracks (sequential k s) t
  run     : haltsOnlyAtWb t

section
variable {s t : State} {k : Nat}

theorem Tracks.takeFault {A : State} (h : Tracks A t) (kind : FaultTag) (p i : Word) :
    Tracks A (takeFault t kind p i) := { h with }

theorem beforeMem_sequential :
    beforeMem (sequential k s) t = sequential (if t.memwb.valid = true then k + 1 else k) s := by
  rw [beforeMem]
  cases t.memwb.valid with
  | false => rfl
  | true => exact (sequential_succ k s).symm

theorem Follows.tick (h : Follows s t k) : ∃ k', Follows s (tick t) k' := by
  obtain ⟨-, ht⟩ | ⟨-, hhalt, ht⟩ | ⟨-, hhalt, ht⟩ := tick_cases t
  · exact ⟨k, by rwa [ht]⟩
  · rw [ht]
    exact ⟨k, h.retired, h.tracks.takeFault _ _ _, .inr ⟨rfl, hhalt, rfl⟩⟩
  · have htracks := h.tracks.clockEdge hhalt
    rw [beforeMem_sequential] at htracks
    rw [ht]
    refine ⟨_, ?_, htracks, .inl rfl⟩
    rw [clockEdge_retiredCount, countIf, h.retired]
    split <;> rfl

theorem exists_follows (hs : Claims.startsClean s) (hst : effStalls s = true) (hfl : effFlushes s = true) (n : Nat) :
    ∃ k, Follows s (ticks n s) k := by
  induction n with
  | zero => exact ⟨0, rfl, tracks_of_startsClean hs hst hfl, .inl hs.2.2⟩
  | succ n ih =>
    obtain ⟨k, hk⟩ := ih
    rw [ticks_succ]
    exact hk.tick

/-- A halted block has taken the fault that the reference takes next. -/
theorem Follows.halted (h : Follows s t k) (hh : t.runState = .haltedFault) :
    (sequential (k + 1) s).runState = .haltedFault ∧ (sequential (k + 1) s).faultRecord = t.faultRecord := by
  obtain hr | ⟨-, hhalt, hrecord⟩ := h.run
  · simp [hh] at hr
  · obtain ⟨hv, hf⟩ := (haltTick_iff t).1 hhalt
    obtain ⟨hpc, ⟨-, hn⟩ | ⟨i, hc, -⟩⟩ := h.tracks.wb hv
    · rw [sequential_succ, hn, hrecord, hpc]
      exact ⟨rfl, rfl⟩
    · exact absurd hc.fault hf

/-- With stalls and flushes on, forwarding on or off, every number of ticks has committed what the reference commits. -/
theorem matchesAfter_of_stalls_flushes (hs : Claims.startsClean s) (hst : effStalls s = true)
    (hfl : effFlushes s = true) (n : Nat) : Claims.matchesAfter s n := by
  obtain ⟨k, h⟩ := exists_follows hs hst hfl n
  exact ⟨ticks n s, k, (stepsTo_iff_eq_ticks hs.1 n).2 rfl, h.retired, h.tracks.regs, h.tracks.ready,
    by rw [h.tracks.dmem, beforeMem_sequential], fun hv => (h.tracks.wb hv).pc, h.halted⟩

/-- The block halts with the reference: it retires at least every third tick, and cannot retire what the reference does
not execute. -/
theorem haltsTogether_of_stalls_flushes (hs : Claims.startsClean s) (hst : effStalls s = true)
    (hfl : effFlushes s = true) : Claims.haltsTogether s := by
  constructor
  · rintro ⟨n, t, hsteps, hh⟩
    obtain ⟨k, h⟩ := exists_follows hs hst hfl n
    rw [(stepsTo_iff_eq_ticks hs.1 n).1 hsteps] at hh
    exact ⟨k + 1, (h.halted hh).1⟩
  · rintro ⟨m, hm⟩
    obtain ⟨t, hsteps, hh | hcount⟩ := retiresAtLeastEveryThirdTick s m hs
    · exact ⟨_, t, hsteps, hh⟩
    · obtain ⟨k, h⟩ := exists_follows hs hst hfl (3 * m + 4)
      rw [← (stepsTo_iff_eq_ticks hs.1 _).1 hsteps] at h
      have hmk : m ≤ k := by have := h.retired; omega
      have hready := h.tracks.ready
      rw [sequential_of_halted hm hmk, hm] at hready
      cases hready

end

/-- Settles O43: all three options on is a case of stalls and flushes on. -/
theorem pipelineMatchesSequentialExecution : Obligations.PipelineMatchesSequentialExecution := by
  intro s hs hon
  simp only [fullyEnabled, Bool.and_eq_true] at hon
  obtain ⟨⟨hst, hfl⟩, -⟩ := hon
  exact ⟨matchesAfter_of_stalls_flushes hs hst hfl, haltsTogether_of_stalls_flushes hs hst hfl⟩

end Sys2Proof.Machine
end

section
/-! Proofs for 47_hazard_forwarding.md: with stalls and flushes on, the pipeline without forwarding follows the reference
too (R264, R274; 70_reset_and_hazards.md R387). -/

namespace Sys2Proof.Machine

/-- Settles O44: forwarding off leaves `HazardFree` with no producer in flight, so stalls and flushes suffice. -/
theorem stallingPipelineMatchesSequentialExecution : Obligations.StallingPipelineMatchesSequentialExecution := by
  intro s hs hst hfl _
  exact ⟨matchesAfter_of_stalls_flushes hs hst hfl, haltsTogether_of_stalls_flushes hs hst hfl⟩

end Sys2Proof.Machine
end

section
/-! Proofs for 47_hazard_forwarding.md: when a tick stalls (R261 to R265, R269). -/

namespace Sys2Proof.Machine

/-! ## Sources and producers (R261, R262) -/

/-- The word's fields that the format makes source registers are the instruction's sources (R261). -/
theorem mem_sources_iff {w : Word} {i : Instr} (hd : decode w = .instr i) (r : RegIdx) :
    r ∈ Claims.sources i ↔
      (formatHasRs1 i.format = true ∧ r = fieldRs1 w) ∨ (formatHasRs2 i.format = true ∧ r = fieldRs2 w) := by
  obtain ⟨-, rfl⟩ := decode_eq_instr_iff.1 hd
  cases i <;> simp [Claims.sources, encode, Instr.format, Instr.mnemonic, Mnemonic.format, formatHasRs1, formatHasRs2]

/-- `cw.ResSrc` by R191's formula. -/
theorem ctl_resSrc (s : State) (cw : Nat) : (ctl s cw).resSrc = Claims.fieldOf cw s.layout.resSrc :=
  extract_eq_fieldOf cw _

theorem produces_iff {s : State} {valid : Bool} {cw : Nat} {rd r : RegIdx} :
    Claims.produces s valid cw rd r ↔ slotWrites s valid cw rd r = true ∧ r ≠ 0#5 := by
  simp only [Claims.produces, slotWrites_iff, ctl, unpack, extract_eq_fieldOf, and_assoc]

theorem idFormat_of_instr {s : State} {i : Instr} (hv : s.ifid.valid = true) (hf : s.ifid.fault = .none)
    (hd : decode s.ifid.instr = .instr i) : idFormat s = some i.format := by
  simp [idFormat, idOk, idDecoded, hv, hf, hd]

/-- With no instruction in ID there is no format (R261). -/
theorem idFormat_eq_none {s : State}
    (h : s.ifid.valid = false ∨ s.ifid.fault ≠ .none ∨ ∃ why, decode s.ifid.instr = .invalid why) :
    idFormat s = none := by
  obtain hv | hf | ⟨why, hd⟩ := h
  · have hok : idOk s = false := by simp [idOk, hv]
    simp [idFormat, hok]
  · have hok : idOk s = false := by simp [idOk, hf]
    simp [idFormat, hok]
  · cases hok : idOk s <;> simp [idFormat, idDecoded, hok, hd]

/-- The hazard detector matches a slot that writes a source of the instruction in ID (R262). -/
theorem hazardMatch_iff {s : State} {i : Instr} (hformat : idFormat s = some i.format)
    (hd : decode s.ifid.instr = .instr i) (valid : Bool) (cw : Nat) (rd : RegIdx) :
    hazardMatch s valid cw rd = true ↔ ∃ r ∈ Claims.sources i, Claims.produces s valid cw rd r := by
  simp only [hazardMatch, usesRs1, usesRs2, hformat, Option.any_some, Bool.and_eq_true, Bool.or_eq_true, beq_iff_eq,
    bne_iff_ne, mem_sources_iff hd, produces_iff, slotWrites_iff]
  constructor
  · rintro ⟨⟨⟨hv, hb⟩, h0⟩, ⟨⟨h1, -⟩, rfl⟩ | ⟨⟨h2, -⟩, rfl⟩⟩
    · exact ⟨_, .inl ⟨h1, rfl⟩, ⟨hv, hb, rfl⟩, h0⟩
    · exact ⟨_, .inr ⟨h2, rfl⟩, ⟨hv, hb, rfl⟩, h0⟩
  · rintro ⟨r, hsource, ⟨hv, hb, rfl⟩, h0⟩
    obtain ⟨h1, rfl⟩ | ⟨h2, rfl⟩ := hsource
    · exact ⟨⟨⟨hv, hb⟩, h0⟩, .inl ⟨⟨h1, h0⟩, rfl⟩⟩
    · exact ⟨⟨⟨hv, hb⟩, h0⟩, .inr ⟨⟨h2, h0⟩, rfl⟩⟩

/-! ## When a tick stalls (R263 to R265) -/

/-- With forwarding on only a load in EX makes a tick wait (R263). -/
theorem stall_iff_of_forwarding {s : State} (hf : effForwarding s = true) :
    stall s = true ↔ effStalls s = true ∧ matchIDEX s = true ∧ (exCtl s).resSrc = 1 := by
  simp [stall, needStall, hf, exCtl]

/-- With forwarding off any producer in EX or MEM does (R264). -/
theorem stall_iff_of_no_forwarding {s : State} (hf : effForwarding s = false) :
    stall s = true ↔ effStalls s = true ∧ (matchIDEX s = true ∨ matchEXMEM s = true) := by
  simp [stall, needStall, hf]

theorem stall_of_idFormat_none {s : State} (h : idFormat s = none) : stall s = false := by
  simp [stall, needStall, matchIDEX, matchEXMEM, hazardMatch, usesRs1, usesRs2, h]

/-- Settles O31: the two forms of the hazard detector, with its matches read as sources and producers. -/
theorem stallExactlyOnUnmetDependency : Obligations.StallExactlyOnUnmetDependency := by
  refine ⟨fun s i hv hfault hd => ?_, fun s h => stall_of_idFormat_none (idFormat_eq_none h)⟩
  have hmatch := hazardMatch_iff (idFormat_of_instr hv hfault hd) hd
  refine ⟨fun hf => ?_, fun hf => ?_⟩
  · rw [stall_iff_of_forwarding hf, matchIDEX, hmatch, exCtl, ctl_resSrc, and_comm (b := _ = 1)]
  · rw [stall_iff_of_no_forwarding hf, matchIDEX, matchEXMEM, hmatch, hmatch]
    simp only [and_or_left, exists_or]

/-! ## Stalls and transfers (R269) -/

/-- A load transfers nothing (45_control_word.md R200). -/
theorem pcSrc_of_resSrc_one (i : Instr) (h : (decodeControl i).resSrc = 1) : (decodeControl i).pcSrc = 0 := by
  cases i <;> simp_all [decodeControl, Control.aluOp, Control.zero]

theorem pcSrc_of_generated_load {l : CwLayout} (hl : layoutAdmissible l = true) {cw : Nat} (hg : generatedWord l cw)
    (h : (unpack l cw).resSrc = 1) : (unpack l cw).pcSrc = 0 := by
  obtain rfl | ⟨i, rfl⟩ := hg
  · simp [Control.zero]
  · rw [unpack_pack_of_admissible hl] at h ⊢
    exact pcSrc_of_resSrc_one i h

/-- Settles O32: with forwarding on the stall needs a load in EX, which takes no transfer. -/
theorem stalledTransferNeedsForwardingOff : Obligations.StalledTransferNeedsForwardingOff := by
  intro s hinv hst hb
  by_contra hf
  rw [Bool.not_eq_false] at hf
  obtain ⟨-, -, hload⟩ := (stall_iff_of_forwarding hf).1 hst
  obtain ⟨-, -, -, -, hgenerated⟩ := hinv.idexOk
  have hpc : (exCtl s).pcSrc = 0 := pcSrc_of_generated_load hinv.layoutOk hgenerated hload
  simp [branchTaken_eq, transfers, hpc] at hb

end Sys2Proof.Machine
end

section
/-! Proofs for 47_hazard_forwarding.md: what the forwarding multiplexers give (R270 to R273, R276, R279). -/

namespace Sys2Proof.Machine

/-! ## The youngest producer (R271 to R273) -/

/-- Operands for which no selector asks are those that ID read (R273). -/
@[simp] theorem forwardMux_noForward (s : State) (operand : Word) : forwardMux s .noForward operand = operand := rfl

/-- Register 0 is never forwarded (R271, R277). -/
@[simp] theorem selector_zero (s : State) (use : Bool) : selector s use 0#5 = .noForward := by
  simp [selector]

/-- A used operand with forwarding on is the value of its youngest producer in flight. -/
theorem youngest_forwardMux {s : State} (hf : effForwarding s = true) (r : RegIdx) (old : Word) :
    Claims.youngest s r old (forwardMux s (selector s true r) old) := by
  simp only [Claims.youngest, produces_iff, ← ctl_resSrc]
  by_cases hr : r = 0#5
  · simp [hr]
  · rw [selector_eq hr hf]
    refine ⟨fun ⟨hx, _⟩ => ?_, fun hx ⟨hm, _⟩ => ?_, fun hx hm => ?_⟩
    · rw [if_pos hx]
      rfl
    · rw [if_neg (fun h => hx ⟨h, hr⟩), if_pos hm]
      exact wbResult_eq s
    · rw [if_neg (fun h => hx ⟨h, hr⟩), if_neg (fun h => hm ⟨h, hr⟩)]
      rfl

/-! ## Which operands an instruction uses (R270) -/

section
variable (j : Instr)

theorem pcSrc_eq_three_iff : (decodeControl j).pcSrc = 3 ↔ Claims.isJal j = true := by
  cases j <;> simp [decodeControl, Control.aluOp, Control.zero, Claims.isJal]

theorem memWr_eq_one_iff : (decodeControl j).memWr = 1 ↔ Claims.isStore j = true := by
  cases j <;> simp [decodeControl, Control.aluOp, Control.zero, Claims.isStore]

theorem aluSrc_of_format (h : j.format = .r ∨ j.format = .b) :
    (decodeControl j).aluSrc = 0 ∧ (decodeControl j).pcSrc ≠ 3 := by
  cases j <;>
    simp_all [decodeControl, Control.aluOp, Control.zero, Instr.format, Instr.mnemonic, Mnemonic.format]

theorem memWr_of_isJal (h : Claims.isJal j = true) : (decodeControl j).memWr = 0 := by
  cases j <;> simp_all [decodeControl, Control.zero, Claims.isJal]

end

theorem exValid_of_inExecute {s : State} {j : Instr} (h : Claims.inExecute s j) : exValid s = true := by
  obtain ⟨hv, hf, -⟩ := h
  simp [exValid, hv, hf]

theorem exCtl_of_inExecute {s : State} {j : Instr} (hl : layoutAdmissible s.layout = true)
    (h : Claims.inExecute s j) : exCtl s = decodeControl j := by
  obtain ⟨-, -, hcw⟩ := h
  rw [exCtl, ctl, hcw, unpack_pack_of_admissible hl]

/-- Settles O33: the operands that the instruction uses go through their multiplexers. -/
theorem forwardingTakesTheYoungestProducer : Obligations.ForwardingTakesTheYoungestProducer := by
  intro s j hl hf hj
  have hv := exValid_of_inExecute hj
  have hc := exCtl_of_inExecute hl hj
  refine ⟨fun hnot => ?_, fun hformat => ?_, fun hstore => ?_, fun hjal => ?_⟩
  · have huse : useA s = true := by simp [useA, hv, hc, pcSrc_eq_three_iff, hnot]
    rw [srcA, controlForwardA, huse]
    exact youngest_forwardMux hf _ _
  · obtain ⟨hs, hp⟩ := aluSrc_of_format j hformat
    have huse : useB s = true := by simp [useB, hv, hc, hs, hp]
    rw [regB, controlForwardB, huse]
    exact youngest_forwardMux hf _ _
  · have huse : useM s = true := by simp [useM, hv, hc, (memWr_eq_one_iff j).2 hstore]
    rw [writeData, controlForwardM, huse]
    exact youngest_forwardMux hf _ _
  · have hp := (pcSrc_eq_three_iff j).2 hjal
    have hA : useA s = false := by simp [useA, hc, hp]
    have hB : useB s = false := by simp [useB, hc, hp]
    have hM : useM s = false := by simp [useM, hc, memWr_of_isJal j hjal]
    simp [controlForwardA, controlForwardB, controlForwardM, hA, hB, hM]

/-! ## Loads in EX/MEM (R276) -/

/-- A selector takes from EX/MEM only what that slot writes, for an operand that is used. -/
theorem of_selector_eq_fromExMem {s : State} {use : Bool} {r : RegIdx} (h : selector s use r = .fromExMem) :
    use = true ∧ r ≠ 0#5 ∧ slotWrites s s.exmem.valid s.exmem.cw s.exmem.rd r = true := by
  unfold selector at h
  split at h
  · cases h
  · next hused =>
    simp only [Bool.or_eq_true, Bool.not_eq_true', beq_iff_eq, not_or, Bool.not_eq_false] at hused
    obtain ⟨⟨-, huse⟩, hr⟩ := hused
    split at h
    · next hw => exact ⟨huse, hr, hw⟩
    · split at h <;> cases h

theorem fwdMem_of_load {s : State} (h : Claims.fieldOf s.exmem.cw s.layout.resSrc = 1) :
    fwdMem s = s.exmem.aluResult := by
  simp [fwdMem, ctl_resSrc, h]

/-- Nothing that the hazard detector let into EX takes its operand from a load in EX/MEM (R263). -/
theorem resSrc_of_forwarded {s : State} (hfree : HazardFree s) {r : RegIdx} (hr : r ≠ 0#5) (huse : usesInEx s r)
    (hw : slotWrites s s.exmem.valid s.exmem.cw s.exmem.rd r = true) :
    Claims.fieldOf s.exmem.cw s.layout.resSrc ≠ 1 := by
  rw [← ctl_resSrc]
  exact ((hfree r hr huse).1 hw).2

/-- Settles O36: what moves into EX is free of load hazards, and what is taken from a load in EX/MEM is its address. -/
theorem loadAddressNeverForwardedUnderStalls : Obligations.LoadAddressNeverForwardedUnderStalls := by
  refine ⟨fun s hs hst => ⟨_, step_of_committing hs, ?_⟩, fun s hload => ?_⟩
  · have hfree := hazardFree_clockEdge hs.1.2 hst
    refine ⟨fun h => ?_, fun h => ?_, fun h => ?_⟩ <;> obtain ⟨huse, hr, hw⟩ := of_selector_eq_fromExMem h
    · exact resSrc_of_forwarded hfree hr (.inl ⟨huse, rfl⟩) hw
    · exact resSrc_of_forwarded hfree hr (.inr ⟨.inl huse, rfl⟩) hw
    · exact resSrc_of_forwarded hfree hr (.inr ⟨.inr huse, rfl⟩) hw
  · have hmux : ∀ old, forwardMux s .fromExMem old = s.exmem.aluResult := fun _ => fwdMem_of_load hload
    exact ⟨fun h => by rw [srcA, h, hmux], fun h => by rw [regB, h, hmux], fun h => by rw [writeData, h, hmux]⟩

end Sys2Proof.Machine
end

section
/-! Proofs for 47_hazard_forwarding.md: what register 0 and the disabled options leave neutral (R274, R275, R277). -/

namespace Sys2Proof.Machine

/-! ## Register 0 (R277) -/

@[simp] theorem hazardMatch_zero (s : State) (valid : Bool) (cw : Nat) : hazardMatch s valid cw 0#5 = false := by
  simp [hazardMatch]

/-- Settles O34: register 0 as destination, as source in ID and as source in EX. -/
theorem zeroRegisterIsNoDependency : Obligations.ZeroRegisterIsNoDependency := by
  intro s
  refine ⟨fun h => ?_, fun h => ?_, fun h => ?_, fun h => ?_, fun h => ?_, fun h => ?_⟩
  · rw [matchIDEX, h, hazardMatch_zero]
  · rw [matchEXMEM, h, hazardMatch_zero]
  · have h1 : fieldRs1 s.ifid.instr = 0#5 := h
    exact ⟨by simp [usesRs1, h1], by simp [idexIn, h1]⟩
  · have h2 : fieldRs2 s.ifid.instr = 0#5 := h
    exact ⟨by simp [usesRs2, h2], by simp [idexIn, h2]⟩
  · simp [srcA, controlForwardA, h]
  · simp [regB, writeData, controlForwardB, controlForwardM, h]

/-! ## Disabled options (R274, R275) -/

theorem selector_of_no_forwarding {s : State} (hf : effForwarding s = false) (use : Bool) (r : RegIdx) :
    selector s use r = .noForward := by
  simp [selector, hf]

theorem controlForward_of_no_forwarding {s : State} (hf : effForwarding s = false) :
    controlForwardA s = .noForward ∧ controlForwardB s = .noForward ∧ controlForwardM s = .noForward :=
  ⟨selector_of_no_forwarding hf _ _, selector_of_no_forwarding hf _ _, selector_of_no_forwarding hf _ _⟩

/-- A forwarded value that no selector asks for is 0 and inactive (R272; 48_timed_datapath.md R298). -/
theorem sigForward_of_noForward (s : State) {c : Signal Selector} (h : c.value = .noForward) :
    (sigForward s c).value = 0 ∧ (sigForward s c).isActive = false := by
  simp [sigForward, madeBy, forwardValue, h]

/-- In the General model the stored toggles are the effective ones (R212). -/
theorem effectiveToggle_of_general {s : State} (h : s.model = .general) (stored : Bool) :
    effectiveToggle s stored = stored := by
  simp [effectiveToggle, h]

/-- Settles O35: no selector asks without forwarding, and with no stall and no flush both younger slots move on. -/
theorem disabledOptionsLeaveTheBusNeutral : Obligations.DisabledOptionsLeaveTheBusNeutral := by
  refine ⟨fun s hf => ?_, fun s hmodel hst hfl hfw => ?_⟩
  · obtain ⟨hA, hB, hM⟩ := controlForward_of_no_forwarding hf
    simp [srcA, regB, writeData, hA, hB, hM]
  · obtain ⟨hA, hB, hM⟩ := controlForward_of_no_forwarding ((effectiveToggle_of_general hmodel _).trans hfw)
    have hstall : stall s = false := by simp [stall, effStalls, effectiveToggle_of_general hmodel, hst]
    have hflush : flush s = false := by simp [flush, effFlushes, effectiveToggle_of_general hmodel, hfl]
    obtain ⟨hvA, haA⟩ := sigForward_of_noForward s (c := sigControlForwardA s) hA
    obtain ⟨hvB, haB⟩ := sigForward_of_noForward s (c := sigControlForwardB s) hB
    obtain ⟨hvM, haM⟩ := sigForward_of_noForward s (c := sigControlForwardM s) hM
    refine ⟨hstall, hflush, hA, hB, hM, hvA, hvB, hvM, haA, haB, haM, fun hs => ⟨_, step_of_committing hs, ?_⟩⟩
    simp [ifidNext, idexNext, hstall, hflush]

end Sys2Proof.Machine
end

section
/-! Facts for 48_timed_datapath.md: readiness and activity of a signal, by what makes it (R292 to R295). -/

namespace Sys2Proof.Machine

/-! ## The latest of several timings (R294, R295) -/

theorem le_latest {l : List Timing} {g : Timing} (hg : g ∈ l) (ha : g.isActive = true) : g.readyAt ≤ latest l := by
  induction l with
  | nil => cases hg
  | cons t rest ih =>
    obtain rfl | hg := List.mem_cons.1 hg
    · simp [latest, ha]
    · have hrest := ih hg
      unfold latest
      split <;> omega

theorem latest_le {l : List Timing} {n : Nat} (h : ∀ g ∈ l, g.readyAt ≤ n) : latest l ≤ n := by
  induction l with
  | nil => exact Nat.zero_le n
  | cons t rest ih =>
    obtain ⟨ht, hrest⟩ := List.forall_mem_cons.1 h
    unfold latest
    split
    · exact Nat.max_le.2 ⟨ht, ih hrest⟩
    · exact ih hrest

/-- The maximum is that of an active timing, unless it is the 0 of a list without one. -/
theorem latest_attained (l : List Timing) :
    latest l = 0 ∨ ∃ g ∈ l, g.isActive = true ∧ g.readyAt = latest l := by
  induction l with
  | nil => exact .inl rfl
  | cons t rest ih =>
    have hrest : latest (t :: rest) = latest rest →
        latest (t :: rest) = 0 ∨ ∃ g ∈ t :: rest, g.isActive = true ∧ g.readyAt = latest (t :: rest) := by
      intro heq
      rw [heq]
      exact ih.imp_right fun ⟨g, hg, h⟩ => ⟨g, List.mem_cons_of_mem t hg, h⟩
    by_cases ha : t.isActive = true
    · obtain hle | hle := Nat.le_total (latest rest) t.readyAt
      · exact .inr ⟨t, List.mem_cons_self, ha, by simp [latest, ha, hle]⟩
      · exact hrest (by simp [latest, ha, hle])
    · exact hrest (by simp [latest, ha])

/-! ## One component (R292, R294) -/

section
variable {α : Type} (delay : Nat) (deps : List Timing) (active : Bool) (v : α)

@[simp] theorem value_madeBy : (madeBy delay deps active v).value = v := rfl
@[simp] theorem isActive_madeBy : (madeBy delay deps active v).isActive = active := rfl

theorem readyAt_madeBy_of_active (h : active = true) :
    (madeBy delay deps active v).readyAt = delay + latest deps := if_pos h

theorem readyAt_madeBy_of_inactive (h : active = false) : (madeBy delay deps active v).readyAt = 0 := by
  simp [madeBy, h]

end

section
variable {α β : Type} {delay : Nat} {deps : List Timing} {active : Bool} {v : α}

/-- A component's output waits for each of its dependencies. -/
theorem waitsFor_madeBy {d : Signal β} (h : timing d ∈ deps) : Claims.waitsFor (madeBy delay deps active v) d := by
  intro hx hd
  rw [readyAt_madeBy_of_active delay deps active v hx]
  exact (le_latest (g := timing d) h hd).trans (Nat.le_add_left _ _)

/-- A component with a delay of at most 1 is ready at most 1 after the latest of its dependencies. -/
theorem readyAt_madeBy_le {n : Nat} (hd : delay ≤ 1) (h : ∀ g ∈ deps, g.readyAt ≤ n) :
    (madeBy delay deps active v).readyAt ≤ n + 1 := by
  have hlatest := latest_le h
  simp only [madeBy]
  split <;> omega

end

/-! ## Comparing two delay tables (R294, R301) -/

/-- No later, and as active. -/
def Timing.NoLater (g h : Timing) : Prop := g.readyAt ≤ h.readyAt ∧ g.isActive = h.isActive

@[simp] theorem Timing.NoLater.refl (g : Timing) : g.NoLater g := ⟨le_rfl, rfl⟩

theorem latest_le_latest {l m : List Timing} (h : List.Forall₂ Timing.NoLater l m) : latest l ≤ latest m := by
  induction h with
  | nil => exact le_rfl
  | cons hgh _ ih =>
    obtain ⟨hready, hactive⟩ := hgh
    unfold latest
    rw [hactive]
    split <;> omega

/-- A component that is not faster, behind dependencies that are not earlier, is not ready earlier. -/
theorem noLater_madeBy {α β : Type} {d e : Nat} {deps deps' : List Timing} {active : Bool} {v : α} {w : β}
    (hd : d ≤ e) (h : List.Forall₂ Timing.NoLater deps deps') :
    (timing (madeBy d deps active v)).NoLater (timing (madeBy e deps' active w)) := by
  have hlatest := latest_le_latest h
  refine ⟨?_, rfl⟩
  simp only [timing, madeBy]
  split <;> omega

/-- `Claims.delaysLe` with a name for each component (R293). -/
structure DelayLe (d e : Delay) : Prop where
  add  : d.add ≤ e.add
  imem : d.imem ≤ e.imem
  dmem : d.dmem ≤ e.dmem
  rf   : d.rf ≤ e.rf
  ctrl : d.ctrl ≤ e.ctrl
  imm  : d.imm ≤ e.imm
  mux  : d.mux ≤ e.mux
  alu  : d.alu ≤ e.alu
  zero : d.zero ≤ e.zero
  br   : d.br ≤ e.br
  haz  : d.haz ≤ e.haz
  fwd  : d.fwd ≤ e.fwd

theorem delayLe_of_delaysLe {d e : Delay} (h : Claims.delaysLe d e) : DelayLe d e := by
  obtain ⟨add, imem, dmem, rf, ctrl, imm, mux, alu, zero, br, haz, fwd⟩ := h
  exact ⟨add, imem, dmem, rf, ctrl, imm, mux, alu, zero, br, haz, fwd⟩

theorem DelayLe.refl (d : Delay) : DelayLe d d :=
  ⟨le_rfl, le_rfl, le_rfl, le_rfl, le_rfl, le_rfl, le_rfl, le_rfl, le_rfl, le_rfl, le_rfl, le_rfl⟩

/-! ## Outputs and slices of clocked state (R293, R294) -/

section
variable (s : State)

@[simp] theorem readyAt_sigPc : (sigPc s).readyAt = 0 := rfl
@[simp] theorem readyAt_sigOpcode : (sigOpcode s).readyAt = 0 := rfl
@[simp] theorem readyAt_sigFunct3 : (sigFunct3 s).readyAt = 0 := rfl
@[simp] theorem readyAt_sigFunct7 : (sigFunct7 s).readyAt = 0 := rfl
@[simp] theorem readyAt_sigRs1 : (sigRs1 s).readyAt = 0 := rfl
@[simp] theorem readyAt_sigRs2 : (sigRs2 s).readyAt = 0 := rfl
@[simp] theorem readyAt_sigRd : (sigRd s).readyAt = 0 := rfl
@[simp] theorem readyAt_sigMemAddr : (sigMemAddr s).readyAt = 0 := rfl
@[simp] theorem readyAt_sigMemWData : (sigMemWData s).readyAt = 0 := rfl

@[simp] theorem readyAt_timing {α : Type} (x : Signal α) : (timing x).readyAt = x.readyAt := rfl

/-- The fields of the control word are ready and active with it (R297). -/
@[simp] theorem timing_sigField (f : Control → Nat) : timing (sigField s f) = timing (sigControlWord s) := rfl

end

end Sys2Proof.Machine
end

section
/-! Proofs for 48_timed_datapath.md: the critical path (R295) and the depth of each signal (R301). -/

namespace Sys2Proof.Machine

/-! ## The critical path (R295) -/

/-- Being ready at 0 when inactive. -/
def Timing.IdleAtZero (g : Timing) : Prop := g.isActive = false → g.readyAt = 0

@[simp] theorem idleAtZero_madeBy {α : Type} (delay : Nat) (deps : List Timing) (active : Bool) (v : α) :
    (timing (madeBy delay deps active v)).IdleAtZero := readyAt_madeBy_of_inactive delay deps active v

@[simp] theorem idleAtZero_fromState {α : Type} (active : Bool) (v : α) :
    (timing (fromState active v)).IdleAtZero := fun _ => rfl

/-- Every signal is an output of state, made by a component, or a field of the control word. -/
theorem idleAtZero_of_mem (s : State) : ∀ g ∈ signalTimings (signals s), g.IdleAtZero := by
  simp [signalTimings, signals, sigPc, sigPcPlus4, sigInstr, sigPcNext, sigOpcode, sigFunct3, sigFunct7, sigRs1, sigRs2,
    sigRd, sigControlWord, sigImmExt, sigRD1, sigRD2, sigRegRead, sigStall, sigControlForwardA, sigControlForwardB,
    sigControlForwardM, sigForwardA, sigForwardB, sigForwardM, sigForward, sigSrcA, sigRegB, sigWriteData, sigSrcB,
    sigAluResult, sigAluZero, sigPcBranch, sigPcTarget, sigBranchTaken, sigFlush, sigMemAddr, sigMemWData, sigMemRData,
    sigResult]

theorem timing_sigPc_mem (s : State) : timing (sigPc s) ∈ signalTimings (signals s) := List.mem_cons_self

/-- Settles O56: a maximum over a list that has PC, which is active and ready at 0. -/
theorem criticalPathIsTheLatestActiveSignal : Obligations.CriticalPathIsTheLatestActiveSignal := by
  intro s
  refine ⟨fun g hg ha => le_latest hg ha, ?_, idleAtZero_of_mem s, rfl⟩
  obtain hzero | hattained := latest_attained (signalTimings (signals s))
  · exact ⟨timing (sigPc s), timing_sigPc_mem s, rfl, hzero.symm⟩
  · exact hattained

/-! ## The depth of each signal (R301) -/

section
variable {s : State} (h : DelayLe s.delay Delay.default)
include h

theorem sigPcPlus4_le : (sigPcPlus4 s).readyAt ≤ 1 := readyAt_madeBy_le h.add (by simp)
theorem sigInstr_le : (sigInstr s).readyAt ≤ 1 := readyAt_madeBy_le h.imem (by simp)
theorem sigResult_le : (sigResult s).readyAt ≤ 1 := readyAt_madeBy_le h.mux (by simp)
theorem sigMemRData_le : (sigMemRData s).readyAt ≤ 1 := readyAt_madeBy_le h.dmem (by simp)

theorem sigControlWord_le : (sigControlWord s).readyAt ≤ 1 := readyAt_madeBy_le h.ctrl (by simp)
theorem sigImmExt_le : (sigImmExt s).readyAt ≤ 2 := readyAt_madeBy_le h.imm (by simp [sigControlWord_le h])
theorem sigStall_le : (sigStall s).readyAt ≤ 1 := readyAt_madeBy_le h.haz (by simp)

/-- The write-through puts `Result` in front of a register read. -/
theorem sigRegRead_le {field : Signal RegIdx} (hfield : field.readyAt = 0) : (sigRegRead s field).readyAt ≤ 2 := by
  refine readyAt_madeBy_le h.rf ?_
  split <;> simp [hfield, sigResult_le h]

theorem sigControlForwardA_le : (sigControlForwardA s).readyAt ≤ 1 := readyAt_madeBy_le h.fwd (by simp)
theorem sigControlForwardB_le : (sigControlForwardB s).readyAt ≤ 1 := readyAt_madeBy_le h.fwd (by simp)
theorem sigControlForwardM_le : (sigControlForwardM s).readyAt ≤ 1 := readyAt_madeBy_le h.fwd (by simp)

theorem sigForward_le {c : Signal Selector} (hc : c.readyAt ≤ 1) : (sigForward s c).readyAt ≤ 2 := by
  refine readyAt_madeBy_le h.mux ?_
  split <;> simp [hc, sigResult_le h]

theorem sigForwardA_le : (sigForwardA s).readyAt ≤ 2 := sigForward_le h (sigControlForwardA_le h)
theorem sigForwardB_le : (sigForwardB s).readyAt ≤ 2 := sigForward_le h (sigControlForwardB_le h)
theorem sigForwardM_le : (sigForwardM s).readyAt ≤ 2 := sigForward_le h (sigControlForwardM_le h)

theorem sigSrcA_le : (sigSrcA s).readyAt ≤ 3 :=
  readyAt_madeBy_le h.mux (by simp [(sigControlForwardA_le h).trans, sigForwardA_le h])
theorem sigRegB_le : (sigRegB s).readyAt ≤ 3 :=
  readyAt_madeBy_le h.mux (by simp [(sigControlForwardB_le h).trans, sigForwardB_le h])
theorem sigWriteData_le : (sigWriteData s).readyAt ≤ 3 :=
  readyAt_madeBy_le h.mux (by simp [(sigControlForwardM_le h).trans, sigForwardM_le h])
theorem sigSrcB_le : (sigSrcB s).readyAt ≤ 4 := readyAt_madeBy_le h.mux (by simp [sigRegB_le h])
theorem sigAluResult_le : (sigAluResult s).readyAt ≤ 5 :=
  readyAt_madeBy_le h.alu (by simp [(sigSrcA_le h).trans, sigSrcB_le h])
theorem sigAluZero_le : (sigAluZero s).readyAt ≤ 6 := readyAt_madeBy_le h.zero (by simp [sigAluResult_le h])
theorem sigPcBranch_le : (sigPcBranch s).readyAt ≤ 1 := readyAt_madeBy_le h.add (by simp)
theorem sigPcTarget_le : (sigPcTarget s).readyAt ≤ 6 := by
  refine readyAt_madeBy_le h.mux ?_
  split <;> simp [(sigPcBranch_le h).trans, sigAluResult_le h]
theorem sigBranchTaken_le : (sigBranchTaken s).readyAt ≤ 7 := readyAt_madeBy_le h.br (by simp [sigAluZero_le h])
theorem sigFlush_le : (sigFlush s).readyAt ≤ 8 := readyAt_madeBy_le h.haz (by simp [sigBranchTaken_le h])
theorem sigPcNext_le : (sigPcNext s).readyAt ≤ 8 :=
  readyAt_madeBy_le h.mux (by
    simp [(sigPcPlus4_le h).trans, (sigStall_le h).trans, sigBranchTaken_le h, (sigPcTarget_le h).trans])

theorem criticalPathTime_le_eight : criticalPathTime s ≤ 8 := by
  refine latest_le ?_
  simp [signalTimings, signals, sigRD1, sigRD2, (sigPcPlus4_le h).trans, (sigInstr_le h).trans, sigPcNext_le h,
    (sigControlWord_le h).trans, (sigImmExt_le h).trans, (sigRegRead_le h (readyAt_sigRs1 s)).trans,
    (sigRegRead_le h (readyAt_sigRs2 s)).trans, (sigStall_le h).trans, (sigControlForwardA_le h).trans,
    (sigControlForwardB_le h).trans, (sigControlForwardM_le h).trans, (sigForwardA_le h).trans,
    (sigForwardB_le h).trans, (sigForwardM_le h).trans, (sigSrcA_le h).trans, (sigRegB_le h).trans,
    (sigWriteData_le h).trans, (sigSrcB_le h).trans, (sigAluResult_le h).trans, (sigAluZero_le h).trans, (sigPcBranch_le h).trans,
    (sigPcTarget_le h).trans, (sigBranchTaken_le h).trans, sigFlush_le h, (sigMemRData_le h).trans,
    (sigResult_le h).trans]

end

/-- The longest path of R301: a BEQ whose second operand is forwarded from MEM/WB. -/
def branchOnWriteBack : State :=
  { State.reset with
    idex := { IDEX.zero with
      valid := true, pcPlus4 := 4, cw := pack CwLayout.default (decodeControl (.beq 0 7 0)), rs2Idx := 7 }
    memwb := { MEMWB.zero with
      valid := true, pcPlus4 := 4, cw := pack CwLayout.default (decodeControl (.addi 7 0 0)), rd := 7 } }

/-- Settles O57: the depth of each signal, and the longest path written out. -/
theorem criticalPathAtMostEight : Obligations.CriticalPathAtMostEight :=
  ⟨fun _ h => criticalPathTime_le_eight (h ▸ DelayLe.refl _), branchOnWriteBack, rfl, by decide⟩

end Sys2Proof.Machine
end

section
/-! Proofs for 48_timed_datapath.md: readiness under larger delays (R294), and that a step does not read the delays
(R302). -/

namespace Sys2Proof.Machine

/-- The state under another delay table. -/
def State.withDelay (s : State) (e : Delay) : State := { s with delay := e }

/-! ## Readiness under larger delays (R294)

Values and activities are the same by unfolding alone: only `madeBy` looks at a delay. -/

section
variable (s : State) (e : Delay)

@[simp] theorem timing_sigPc_withDelay : timing (sigPc (s.withDelay e)) = timing (sigPc s) := rfl
@[simp] theorem timing_sigOpcode_withDelay : timing (sigOpcode (s.withDelay e)) = timing (sigOpcode s) := rfl
@[simp] theorem timing_sigFunct3_withDelay : timing (sigFunct3 (s.withDelay e)) = timing (sigFunct3 s) := rfl
@[simp] theorem timing_sigFunct7_withDelay : timing (sigFunct7 (s.withDelay e)) = timing (sigFunct7 s) := rfl
@[simp] theorem timing_sigRs1_withDelay : timing (sigRs1 (s.withDelay e)) = timing (sigRs1 s) := rfl
@[simp] theorem timing_sigRs2_withDelay : timing (sigRs2 (s.withDelay e)) = timing (sigRs2 s) := rfl
@[simp] theorem timing_sigRd_withDelay : timing (sigRd (s.withDelay e)) = timing (sigRd s) := rfl
@[simp] theorem timing_sigMemAddr_withDelay : timing (sigMemAddr (s.withDelay e)) = timing (sigMemAddr s) := rfl
@[simp] theorem timing_sigMemWData_withDelay : timing (sigMemWData (s.withDelay e)) = timing (sigMemWData s) := rfl

theorem exCtl_withDelay : exCtl (s.withDelay e) = exCtl s := rfl
theorem wbEn_withDelay : wbEn (s.withDelay e) = wbEn s := rfl
theorem memwb_withDelay : (s.withDelay e).memwb = s.memwb := rfl

end

section
variable {s : State} {e : Delay} (h : DelayLe s.delay e)
include h

theorem sigPcPlus4_noLater : (timing (sigPcPlus4 s)).NoLater (timing (sigPcPlus4 (s.withDelay e))) :=
  noLater_madeBy h.add (by simp)
theorem sigInstr_noLater : (timing (sigInstr s)).NoLater (timing (sigInstr (s.withDelay e))) :=
  noLater_madeBy h.imem (by simp)
theorem sigResult_noLater : (timing (sigResult s)).NoLater (timing (sigResult (s.withDelay e))) :=
  noLater_madeBy h.mux (by simp)
theorem sigMemRData_noLater : (timing (sigMemRData s)).NoLater (timing (sigMemRData (s.withDelay e))) :=
  noLater_madeBy h.dmem (by simp)

theorem sigControlWord_noLater : (timing (sigControlWord s)).NoLater (timing (sigControlWord (s.withDelay e))) :=
  noLater_madeBy h.ctrl (by simp)
theorem sigImmExt_noLater : (timing (sigImmExt s)).NoLater (timing (sigImmExt (s.withDelay e))) :=
  noLater_madeBy h.imm (by simp [sigControlWord_noLater h])
theorem sigStall_noLater : (timing (sigStall s)).NoLater (timing (sigStall (s.withDelay e))) :=
  noLater_madeBy h.haz (by simp)

theorem sigRegRead_noLater (field : Signal RegIdx) :
    (timing (sigRegRead s field)).NoLater (timing (sigRegRead (s.withDelay e) field)) := by
  refine noLater_madeBy h.rf (.cons (.refl _) ?_)
  rw [wbEn_withDelay, memwb_withDelay]
  split <;> simp [sigResult_noLater h]

theorem sigRD1_noLater : (timing (sigRD1 s)).NoLater (timing (sigRD1 (s.withDelay e))) := sigRegRead_noLater h _
theorem sigRD2_noLater : (timing (sigRD2 s)).NoLater (timing (sigRD2 (s.withDelay e))) := sigRegRead_noLater h _

theorem sigControlForwardA_noLater :
    (timing (sigControlForwardA s)).NoLater (timing (sigControlForwardA (s.withDelay e))) :=
  noLater_madeBy h.fwd (by simp)
theorem sigControlForwardB_noLater :
    (timing (sigControlForwardB s)).NoLater (timing (sigControlForwardB (s.withDelay e))) :=
  noLater_madeBy h.fwd (by simp)
theorem sigControlForwardM_noLater :
    (timing (sigControlForwardM s)).NoLater (timing (sigControlForwardM (s.withDelay e))) :=
  noLater_madeBy h.fwd (by simp)

theorem sigForward_noLater {c d : Signal Selector} (hv : c.value = d.value) (hc : (timing c).NoLater (timing d)) :
    (timing (sigForward s c)).NoLater (timing (sigForward (s.withDelay e) d)) := by
  unfold sigForward
  rw [hv]
  refine noLater_madeBy h.mux (.cons hc ?_)
  split <;> simp [sigResult_noLater h]

theorem sigForwardA_noLater : (timing (sigForwardA s)).NoLater (timing (sigForwardA (s.withDelay e))) :=
  sigForward_noLater h rfl (sigControlForwardA_noLater h)
theorem sigForwardB_noLater : (timing (sigForwardB s)).NoLater (timing (sigForwardB (s.withDelay e))) :=
  sigForward_noLater h rfl (sigControlForwardB_noLater h)
theorem sigForwardM_noLater : (timing (sigForwardM s)).NoLater (timing (sigForwardM (s.withDelay e))) :=
  sigForward_noLater h rfl (sigControlForwardM_noLater h)

theorem sigSrcA_noLater : (timing (sigSrcA s)).NoLater (timing (sigSrcA (s.withDelay e))) :=
  noLater_madeBy h.mux (by simp [sigControlForwardA_noLater h, sigForwardA_noLater h])
theorem sigRegB_noLater : (timing (sigRegB s)).NoLater (timing (sigRegB (s.withDelay e))) :=
  noLater_madeBy h.mux (by simp [sigControlForwardB_noLater h, sigForwardB_noLater h])
theorem sigWriteData_noLater : (timing (sigWriteData s)).NoLater (timing (sigWriteData (s.withDelay e))) :=
  noLater_madeBy h.mux (by simp [sigControlForwardM_noLater h, sigForwardM_noLater h])
theorem sigSrcB_noLater : (timing (sigSrcB s)).NoLater (timing (sigSrcB (s.withDelay e))) :=
  noLater_madeBy h.mux (by simp [sigRegB_noLater h])
theorem sigAluResult_noLater : (timing (sigAluResult s)).NoLater (timing (sigAluResult (s.withDelay e))) :=
  noLater_madeBy h.alu (by simp [sigSrcA_noLater h, sigSrcB_noLater h])
theorem sigAluZero_noLater : (timing (sigAluZero s)).NoLater (timing (sigAluZero (s.withDelay e))) :=
  noLater_madeBy h.zero (by simp [sigAluResult_noLater h])
theorem sigPcBranch_noLater : (timing (sigPcBranch s)).NoLater (timing (sigPcBranch (s.withDelay e))) :=
  noLater_madeBy h.add (by simp)

theorem sigPcTarget_noLater : (timing (sigPcTarget s)).NoLater (timing (sigPcTarget (s.withDelay e))) := by
  unfold sigPcTarget
  rw [exCtl_withDelay]
  refine noLater_madeBy h.mux ?_
  split <;> simp [sigPcBranch_noLater h, sigAluResult_noLater h]

theorem sigBranchTaken_noLater : (timing (sigBranchTaken s)).NoLater (timing (sigBranchTaken (s.withDelay e))) :=
  noLater_madeBy h.br (by simp [sigAluZero_noLater h])
theorem sigFlush_noLater : (timing (sigFlush s)).NoLater (timing (sigFlush (s.withDelay e))) :=
  noLater_madeBy h.haz (by simp [sigBranchTaken_noLater h])
theorem sigPcNext_noLater : (timing (sigPcNext s)).NoLater (timing (sigPcNext (s.withDelay e))) :=
  noLater_madeBy h.mux (by
    simp [sigPcPlus4_noLater h, sigStall_noLater h, sigBranchTaken_noLater h, sigPcTarget_noLater h])

theorem signalTimings_noLater :
    List.Forall₂ Timing.NoLater (signalTimings (signals s)) (signalTimings (signals (s.withDelay e))) := by
  simp [signalTimings, signals, sigPcPlus4_noLater h, sigInstr_noLater h, sigPcNext_noLater h,
    sigControlWord_noLater h, sigImmExt_noLater h, sigRD1_noLater h, sigRD2_noLater h, sigStall_noLater h,
    sigControlForwardA_noLater h, sigControlForwardB_noLater h, sigControlForwardM_noLater h, sigForwardA_noLater h,
    sigForwardB_noLater h, sigForwardM_noLater h, sigSrcA_noLater h, sigRegB_noLater h, sigWriteData_noLater h,
    sigSrcB_noLater h, sigAluResult_noLater h, sigAluZero_noLater h, sigPcBranch_noLater h, sigPcTarget_noLater h,
    sigBranchTaken_noLater h, sigFlush_noLater h, sigMemRData_noLater h, sigResult_noLater h]

end

/-- Settles O58: every signal is made by the same component from the same dependencies, none of them earlier. -/
theorem readinessIsMonotoneInDelays : Obligations.ReadinessIsMonotoneInDelays := by
  intro s e he
  have hall := signalTimings_noLater (delayLe_of_delaysLe he)
  exact ⟨hall, latest_le_latest hall⟩

/-! ## A step does not read the delays (R302) -/

section
variable (s : State) (e : Delay)

/-- The datapath of one instruction has no delay in it. -/
theorem archOutcome_withDelay (i : Instr) (w : Word) :
    archOutcome (s.withDelay e) i w = (archOutcome s i w).withDelay e := by
  rw [archOutcome, archOutcome, apply_ite (fun t : State => t.withDelay e)]
  rfl

theorem fetchAndExec_withDelay :
    fetchAndExec (s.withDelay e) = mapNext (·.withDelay e) (fetchAndExec s) := by
  obtain ⟨hbad, hs⟩ | ⟨hok, ⟨why, hd⟩, hs⟩ | ⟨hok, i, hd, hs⟩ := fetchAndExec_cases s
  · rw [hs, fetchAndExec_of_fault (s := s.withDelay e) rfl hbad]; rfl
  · rw [hs, fetchAndExec_of_invalid (s := s.withDelay e) hok hd]; rfl
  · rw [hs, exec_of_decode hd, fetchAndExec_of_instr (s := s.withDelay e) hok hd, exec_of_decode hd,
      archOutcome_withDelay, mapNext]

theorem referenceStep_withDelay :
    referenceStep (s.withDelay e) = mapNext (·.withDelay e) (referenceStep s) := by
  by_cases hr : s.runState = .haltedFault
  · have hr' : (s.withDelay e).runState = .haltedFault := hr
    simp only [referenceStep, hr, hr', mapNext]
  · rw [referenceStep_of_not_halted hr, referenceStep_of_not_halted (s := s.withDelay e) hr]
    exact fetchAndExec_withDelay (setRunState s .ready) e

theorem tick_withDelay : tick (s.withDelay e) = (tick s).withDelay e := by
  obtain ⟨hr, ht⟩ | ⟨hr, hhalt, ht⟩ | ⟨hr, hhalt, ht⟩ := tick_cases s
  · rw [ht, tick_of_halted (s := s.withDelay e) hr]
  · rw [ht, tick_of_haltTick (s := s.withDelay e) hr hhalt]; rfl
  · rw [ht, tick_of_edge (s := s.withDelay e) hr hhalt]; rfl

end

theorem step_withDelay {s t : State} (h : step s = .next t) (e : Delay) :
    step (s.withDelay e) = .next (t.withDelay e) := by
  obtain ⟨hm, href⟩ | ⟨hm, hl, rfl⟩ := step_next_cases h
  · rw [step_of_singleCycle (s := s.withDelay e) hm, referenceStep_withDelay, href, mapNext]
  · rw [step_of_ticking (s := s.withDelay e) ⟨hm, hl⟩, tick_withDelay]

/-- Settles O55: a step carries the other delays along, and the rest of the difference is status. -/
theorem stepIndependentOfDelay : Obligations.StepIndependentOfDelay := by
  intro s t s' hst hstep
  have hstatus : Claims.sameButStatus (s.withDelay t.delay) t := hst
  obtain ⟨t', ht', hsame⟩ := nothingDependsOnStatus _ t _ hstatus (step_withDelay hstep t.delay)
  obtain ⟨x, n, rfl⟩ := sameButStatus_iff.1 hsame
  exact ⟨_, ht', rfl⟩

end Sys2Proof.Machine
end

section
/-! Proofs for 48_timed_datapath.md: the dependencies of each signal (R296 to R300) and the activity of the signals of
EX (R298). -/

namespace Sys2Proof.Machine

/-! ## The dependencies that hold under a condition (R297, R298) -/

section
variable {s : State}

/-- A register read waits for its field, and for `Result` when the write-through supplies it. -/
theorem sigRegRead_waitsFor_field (field : Signal RegIdx) : Claims.waitsFor (sigRegRead s field) field :=
  waitsFor_madeBy List.mem_cons_self

theorem sigRegRead_waitsFor_result {field : Signal RegIdx} (hw : wbEn s = true) (hrd : s.memwb.rd = field.value) :
    Claims.waitsFor (sigRegRead s field) (sigResult s) :=
  waitsFor_madeBy (by simp [hw, hrd])

/-- A forwarded value waits for its selector, and for `Result` when the selector takes it from MEM/WB. -/
theorem sigForward_waitsFor_selector (c : Signal Selector) : Claims.waitsFor (sigForward s c) c :=
  waitsFor_madeBy List.mem_cons_self

theorem sigForward_waitsFor_result {c : Signal Selector} (hc : c.value = .fromMemWb) :
    Claims.waitsFor (sigForward s c) (sigResult s) :=
  waitsFor_madeBy (by simp [hc])

/-- `PC_target` of a JALR waits for the ALU. -/
theorem sigPcTarget_waitsFor_aluResult (h : (exCtl s).pcSrc = 4) :
    Claims.waitsFor (sigPcTarget s) (sigAluResult s) :=
  waitsFor_madeBy (by simp [h])

/-- `PC_target` of any other transfer waits for the adder, which is not active without one. -/
theorem sigPcTarget_waitsFor_pcBranch (s : State) : Claims.waitsFor (sigPcTarget s) (sigPcBranch s) := by
  intro hactive hbranch
  have hsrc : (exCtl s).pcSrc = 1 ∨ (exCtl s).pcSrc = 2 ∨ (exCtl s).pcSrc = 3 := by
    simp only [sigPcBranch, isActive_madeBy, Bool.and_eq_true, Bool.or_eq_true, beq_iff_eq, or_assoc] at hbranch
    exact hbranch.2
  refine waitsFor_madeBy ?_ hactive hbranch
  obtain h | h | h := hsrc <;> simp [h]

end

/-- Settles O59: each dependency stands in the list that its component is made from. -/
theorem readinessRespectsDependencies : Obligations.ReadinessRespectsDependencies := by
  intro s
  refine
    -- IF
    ⟨waitsFor_madeBy (by simp), waitsFor_madeBy (by simp), waitsFor_madeBy (by simp), waitsFor_madeBy (by simp),
    waitsFor_madeBy (by simp), waitsFor_madeBy (by simp),
    -- ID
    waitsFor_madeBy (by simp), waitsFor_madeBy (by simp), waitsFor_madeBy (by simp), waitsFor_madeBy (by simp),
    sigRegRead_waitsFor_field _, sigRegRead_waitsFor_field _, sigRegRead_waitsFor_result (field := sigRs1 s),
    sigRegRead_waitsFor_result (field := sigRs2 s),
    waitsFor_madeBy (by simp), waitsFor_madeBy (by simp), waitsFor_madeBy (by simp),
    -- the forwarding multiplexers
    sigForward_waitsFor_selector _, sigForward_waitsFor_selector _, sigForward_waitsFor_selector _,
    sigForward_waitsFor_result (c := sigControlForwardA s), sigForward_waitsFor_result (c := sigControlForwardB s),
    sigForward_waitsFor_result (c := sigControlForwardM s),
    waitsFor_madeBy (by simp), waitsFor_madeBy (by simp), waitsFor_madeBy (by simp), waitsFor_madeBy (by simp),
    waitsFor_madeBy (by simp), waitsFor_madeBy (by simp),
    -- the ALU and the transfer
    waitsFor_madeBy (by simp), waitsFor_madeBy (by simp), waitsFor_madeBy (by simp), waitsFor_madeBy (by simp),
    fun _ => sigPcTarget_waitsFor_pcBranch s, sigPcTarget_waitsFor_aluResult, waitsFor_madeBy (by simp),
    waitsFor_madeBy (by simp),
    -- MEM
    waitsFor_madeBy (by simp)⟩

/-! ## Activity in EX (R298) -/

section
variable (j : Instr)

/-! ### The fields that route, by the instruction (45_control_word.md R200) -/

theorem pcSrc_bne_three : ((decodeControl j).pcSrc != 3) = !Claims.isJal j := by cases j <;> rfl

theorem pcSrc_is_branch : ((decodeControl j).pcSrc == 1 || (decodeControl j).pcSrc == 2) = Claims.isBranch j := by
  cases j <;> rfl

theorem pcSrc_is_relative :
    ((decodeControl j).pcSrc == 1 || (decodeControl j).pcSrc == 2 || (decodeControl j).pcSrc == 3) =
      (Claims.isBranch j || Claims.isJal j) := by
  cases j <;> rfl

theorem pcSrc_bne_zero :
    ((decodeControl j).pcSrc != 0) = (Claims.isBranch j || Claims.isJal j || Claims.isJalr j) := by
  cases j <;> rfl

theorem memWr_beq_one : ((decodeControl j).memWr == 1) = Claims.isStore j := by cases j <;> rfl

theorem aluSrc_is_register :
    ((decodeControl j).aluSrc == 0 && (decodeControl j).pcSrc != 3) = (j.format == .r || j.format == .b) := by
  cases j <;> rfl

end

section
variable {s : State} {j : Instr} (hl : layoutAdmissible s.layout = true) (h : Claims.inExecute s j)
include hl h

theorem useA_of_inExecute : useA s = !Claims.isJal j := by
  rw [useA, exValid_of_inExecute h, exCtl_of_inExecute hl h, pcSrc_bne_three, Bool.true_and]

theorem useB_of_inExecute : useB s = (j.format == .r || j.format == .b) := by
  rw [useB, exValid_of_inExecute h, exCtl_of_inExecute hl h, Bool.true_and, aluSrc_is_register]

theorem useM_of_inExecute : useM s = Claims.isStore j := by
  rw [useM, exValid_of_inExecute h, exCtl_of_inExecute hl h, memWr_beq_one, Bool.true_and]

end

theorem exValid_eq_false {s : State} (h : s.idex.valid = false ∨ s.idex.fault ≠ .none) : exValid s = false := by
  obtain hv | hf := h
  · simp [exValid, hv]
  · simp [exValid, hf]

theorem uses_of_not_exValid {s : State} (h : exValid s = false) : useA s = false ∧ useB s = false ∧ useM s = false := by
  simp [useA, useB, useM, h]

/-- Settles O60: the activity that each rule states, read off the control word of the instruction in EX. -/
theorem executeSignalsActiveByInstruction : Obligations.ExecuteSignalsActiveByInstruction := by
  refine ⟨fun s j hl h => ?_, fun s h => ?_⟩
  · have hv := exValid_of_inExecute h
    have hc := exCtl_of_inExecute hl h
    have hA := useA_of_inExecute hl h
    have hB := useB_of_inExecute hl h
    have hM := useM_of_inExecute hl h
    refine ⟨?_, ?_, hA, ?_, hB, hM, ?_, ?_, ?_, ?_, ?_, ?_, rfl, rfl, rfl⟩
    · rw [sigAluZero, isActive_madeBy, hv, hc, Bool.true_and, pcSrc_is_branch]
    · exact hA
    · exact hA
    · rw [sigPcBranch, isActive_madeBy, hv, hc, Bool.true_and, pcSrc_is_relative]
    · rw [sigPcTarget, isActive_madeBy, hv, hc, Bool.true_and, pcSrc_bne_zero]
    · rw [sigBranchTaken, isActive_madeBy, hv, hc, Bool.true_and, pcSrc_bne_zero]
    · rw [sigControlForwardA, isActive_madeBy, hA]
    · rw [sigControlForwardB, isActive_madeBy, hB]
    · rw [sigControlForwardM, isActive_madeBy, hM]
  · have hv := exValid_eq_false h
    obtain ⟨hA, hB, hM⟩ := uses_of_not_exValid hv
    simp [sigAluZero, sigAluResult, sigSrcA, sigRegB, sigWriteData, sigSrcB, sigPcBranch, sigPcTarget, sigBranchTaken,
      sigControlForwardA, sigControlForwardB, sigControlForwardM, sigForwardA, sigForwardB, sigForwardM, sigForward,
      controlForwardA, controlForwardB, controlForwardM, hv, hA, hB, hM]

end Sys2Proof.Machine
end

section
/-! Proofs for 49_host_interface.md: the host's calls on program, options and data memory (R323, R325, R327), and a step
undone (R329). -/

namespace Sys2Proof.Machine

/-! ## The program and the options (R323, R325) -/

theorem loadProgram_of_long {bytes : List Byte} {s : State} (h : s.memSize < bytes.length) :
    loadProgram bytes s = .failed .programTooLong := if_pos h

/-- Settles O48: the byte array made from the string, which fits as the string does. -/
theorem loadProgramReplacesInstructionMemory : Obligations.LoadProgramReplacesInstructionMemory := by
  refine fun bytes s => ⟨fun hfits => ⟨_, loadProgram_eq_ok_iff.2 ⟨hfits, rfl⟩, fun a => ?_, ?_, ?_, rfl⟩,
    loadProgram_of_long⟩
  · simpa using readByte_memoryOfBytes bytes 0 a
  · exact wf_memoryOfBytes 0 bytes
  · exact below_memoryOfBytes hfits

theorem setHazardOptions_of_general {s : State} (h : s.model = .general) (stalls flushes forwarding : Bool) :
    setHazardOptions stalls flushes forwarding s =
      { s with stallsEn := stalls, flushesEn := flushes, forwardingEn := forwarding } := by
  simp [setHazardOptions, h]

theorem setHazardOptions_of_not_general {s : State} (h : s.model ≠ .general) (stalls flushes forwarding : Bool) :
    setHazardOptions stalls flushes forwarding s = s := by
  unfold setHazardOptions
  split
  · next hg => exact absurd hg h
  · rfl
  · rfl

theorem hazardOptionsReport_of_not_general {m : Model} (h : m ≠ .general) :
    hazardOptionsReport m = .invalidModelTransition := by
  cases m with
  | general => exact absurd rfl h
  | pipelined => rfl
  | singleCycle => rfl

/-- Settles O49: in General the stored toggles are set and are the effective ones. -/
theorem hazardOptionsOnlyInGeneral : Obligations.HazardOptionsOnlyInGeneral := by
  refine fun a b c s => ⟨fun hg => ?_, fun hg => ?_⟩
  · rw [setHazardOptionsCall, setHazardOptions_of_general hg]
    exact ⟨rfl, effectiveToggle_of_general hg a, effectiveToggle_of_general hg b, effectiveToggle_of_general hg c,
      by rw [hg, hazardOptionsReport]⟩
  · rw [setHazardOptionsCall, setHazardOptions_of_not_general hg, hazardOptionsReport_of_not_general hg]
    exact ⟨rfl, rfl⟩

/-! ## Words of the data memory (R327; 20_memory.md R53, R66) -/

theorem hostReadWord_of_ok {a : Word} {s : State} (h : accessFault s.memSize a = .none) :
    hostReadWord a s = .ok (loadWord s a) := by
  simp [hostReadWord, h]

/-- A failing check is reported to the caller of either access, with the address. -/
theorem hostAccess_of_fault {a : Word} {s : State} {kind : FaultTag} (h : accessFault s.memSize a = kind)
    (hkind : kind ≠ .none) (v : Word) :
    hostWriteWord a v s = .failed (.access kind a) ∧ hostReadWord a s = .failed (.access kind a) := by
  unfold hostWriteWord hostReadWord
  rw [h]
  cases kind with
  | none => exact absurd rfl hkind
  | decode => exact ⟨rfl, rfl⟩
  | alignment => exact ⟨rfl, rfl⟩
  | range => exact ⟨rfl, rfl⟩

/-- Settles O50: the outcome of the check selects the case. -/
theorem hostWordAccess : Obligations.HostWordAccess := by
  refine fun a v s hwf => ⟨fun haligned hin => ?_, fun hmis => ?_, fun haligned hout => ?_⟩
  · have hok : accessFault s.memSize a = .none := (accessFault_none_iff _ _).2 ⟨haligned, hin⟩
    refine ⟨storeWord s a v, hostWriteWord_eq_ok_iff.2 ⟨hok, rfl⟩, ?_, fun b hb => ?_, rfl⟩
    · rw [hostReadWord_of_ok (s := storeWord s a v) hok]
      exact congrArg _ (readWord_writeWord_same hwf a.toNat v)
    · exact readByte_writeWord_outside hwf v (by omega)
  · exact hostAccess_of_fault ((accessFault_alignment_iff _ _).2 hmis) (by decide) v
  · exact hostAccess_of_fault ((accessFault_range_iff _ _).2 ⟨haligned, hout⟩) (by decide) v

/-! ## A step and a step back (R329; 60_exceptions.md R352) -/

/-- A session steps as its block does, and keeps the state before the step. -/
theorem sessionStep_eq_next_iff {x y : Session} :
    sessionStep x = .next y ↔
      ∃ t, step x.block = .next t ∧
        (⟨t, withinBound x.bound (.entry (entryOf x.block) :: x.history), x.bound⟩ : Session) = y := by
  unfold sessionStep
  split <;> simp [*]

/-- A bound that allows an item keeps the newest one. -/
theorem withinBound_cons {bound : Option Nat} (h : bound ≠ some 0) (item : HistoryItem) (rest : List HistoryItem) :
    ∃ older, withinBound bound (item :: rest) = item :: older := by
  match bound, h with
  | none, _ => exact ⟨rest, rfl⟩
  | some (n + 1), _ => exact ⟨rest.take n, rfl⟩

/-- An entry holds everything but the program and the configuration. -/
theorem restoreEntry_entryOf {s t : State} (h : programAndConfig t = programAndConfig s) :
    restoreEntry (entryOf s) t = s := by
  simp only [programAndConfig, Prod.mk.injEq] at h
  obtain ⟨himem, hmodel, hstalls, hflushes, hforwarding, hlayout, hdelay, hsize⟩ := h
  simp only [restoreEntry, entryOf, himem, hmodel, hstalls, hflushes, hforwarding, hlayout, hdelay, hsize]

/-- Settles O51: the newest entry is the state before the step, and the step kept what no entry holds. -/
theorem stepBackRestoresTheBlock : Obligations.StepBackRestoresTheBlock := by
  refine ⟨fun x y hbound hstep => ?_, fun x hx => by simp [stepBack, hx]⟩
  obtain ⟨t, ht, rfl⟩ := sessionStep_eq_next_iff.1 hstep
  obtain ⟨older, holder⟩ := withinBound_cons hbound (.entry (entryOf x.block)) x.history
  exact ⟨_, stepBack_eq_restored_iff.2 ⟨_, older, holder, rfl⟩, restoreEntry_entryOf (step_keeps_programAndConfig ht)⟩

end Sys2Proof.Machine
end

section
/-! Proofs for 49_host_interface.md: what each result of `steps_until` says of the block it leaves (R328; log 7,
log 12). -/

namespace Sys2Proof.Machine

/-! ## What a step can answer -/

/-- The only step that is refused is a tick under a layout that is not admissible (log 7). -/
theorem layoutNotAdmissible_of_step_refused {s : State} {why : Refusal} (h : step s = .refused why) :
    why = .layoutNotAdmissible := by
  have htick : tickStep s = .refused why → why = .layoutNotAdmissible := by
    intro ht
    unfold tickStep at ht
    split at ht
    · cases ht
    · exact (Host.Outcome.refused.inj ht).symm
  unfold step at h
  split at h
  · rw [referenceStep_eq_next] at h
    cases h
  · exact htick h
  · exact htick h

theorem step_of_sessionStep_refused {x : Session} {why : Refusal} (h : sessionStep x = .refused why) :
    step x.block = .refused why := by
  unfold sessionStep at h
  split at h
  · cases h
  · cases h
  · next hstep => rw [hstep, Host.Outcome.refused.inj h]

/-- A step ends in Ready or in Halted-Fault (46_pipeline_stages.md R211, R222; 49_host_interface.md R328). -/
theorem runState_of_step {s t : State} (h : step s = .next t) : t.runState = .ready ∨ t.runState = .haltedFault := by
  obtain ⟨-, href⟩ | ⟨-, -, rfl⟩ := step_next_cases h
  · by_cases hr : s.runState = .haltedFault
    · rw [referenceStep_eq_next, refNext_of_halted hr] at href
      exact .inr (Host.Outcome.next.inj href ▸ hr)
    · rw [referenceStep_of_not_halted hr] at href
      rw [← refNext_of_ready (setRunState_runState s .ready) href]
      exact runState_refNext (.inl rfl)
  · obtain ⟨hr, ht⟩ | ⟨-, -, ht⟩ | ⟨-, -, ht⟩ := tick_cases s
    · exact .inr (by rw [ht, hr])
    · exact .inr (by rw [ht, takeFault_runState])
    · exact .inl (by rw [ht, clockEdge_runState])

/-! ## Runs of steps -/

theorem stepsTo_succ {n : Nat} {s u t : State} (h : Claims.stepsTo n s u) (hstep : step u = .next t) :
    Claims.stepsTo (n + 1) s t := by
  induction n generalizing s with
  | zero =>
    obtain rfl : s = u := h
    exact ⟨t, hstep, rfl⟩
  | succ n ih =>
    obtain ⟨v, hv, hrest⟩ := h
    exact ⟨v, hv, ih hrest⟩

theorem stepsTo_unique {n : Nat} {s t u : State} (ht : Claims.stepsTo n s t) (hu : Claims.stepsTo n s u) : t = u := by
  induction n generalizing s with
  | zero => exact Eq.trans (Eq.symm ht) hu
  | succ n ih =>
    obtain ⟨v, hv, hrest⟩ := ht
    obtain ⟨w, hw, hrest'⟩ := hu
    obtain rfl := Host.Outcome.next.inj (hv.symm.trans hw)
    exact ih hrest hrest'

/-- The states seen after one more step. -/
theorem seenBefore_succ {n : Nat} {s t : State} (h : Claims.stepsTo n s t) (v : State) :
    Claims.seenBefore s (n + 1) v ↔ loopKey v = loopKey t ∨ Claims.seenBefore s n v := by
  constructor
  · rintro ⟨m, u, hm, hu, hkey⟩
    obtain hlt | rfl := Nat.lt_succ_iff_lt_or_eq.1 hm
    · exact .inr ⟨m, u, hlt, hu, hkey⟩
    · obtain rfl := stepsTo_unique hu h
      exact .inl hkey.symm
  · rintro (hkey | ⟨m, u, hm, hu, hkey⟩)
    · exact ⟨n, t, Nat.lt_succ_self n, h, hkey.symm⟩
    · exact ⟨m, u, Nat.lt_succ_of_lt hm, hu, hkey⟩

/-- The compared state has no run state in it. -/
theorem loopKey_setRunState (s : State) (r : RunState) : loopKey (setRunState s r) = loopKey s := rfl

/-! ## The search -/

/-- The states after each of the steps before step `n` end no search. -/
def GoesOnBefore (breakpoints : List Word) (s : State) (n : Nat) : Prop :=
  ∀ k u, 0 < k → k < n → Claims.stepsTo k s u → Claims.searchGoesOn breakpoints s k u

/-- The search from `s` has made `m` steps, which lead to `v`, and has not found a reason to stop; `seen` holds the
compared states of all states so far. -/
structure Searching (breakpoints : List Word) (s : State) (m : Nat) (seen : List LoopKey) (v : State) : Prop where
  reached : Claims.stepsTo m s v
  seen    : ∀ w, loopKey w ∈ seen ↔ Claims.seenBefore s (m + 1) w
  goesOn  : GoesOnBefore breakpoints s (m + 1)

/-- The reason to stop that the result `r` names is true of the state `v` after `n` of at most `cap` steps, and the
search leaves the block `b`. -/
def StopsWith (breakpoints : List Word) (s : State) (cap n : Nat) (v b : State) : RunResult → Prop
  | .hitBreakpoint => b = v ∧ v.pc ∈ breakpoints ∧ v.runState = .ready
  | .loopDetected => b = setRunState v .infiniteLoopDetected ∧ Claims.seenBefore s n v
  | .stepCapReached => n = cap ∧ b = v ∧ Claims.searchGoesOn breakpoints s n v
  | .fault => b = v ∧ v.runState = .haltedFault
  | .refused => False

/-- The search ends in the block `b` with the result `r`: refused, or stopped after a first reason. -/
def SearchEnds (breakpoints : List Word) (s : State) (cap : Nat) (b : State) (r : RunResult) : Prop :=
  (r = .refused ∧ step b = .refused .layoutNotAdmissible) ∨
  ∃ n v, 0 < n ∧ n ≤ cap ∧ Claims.stepsTo n s v ∧ GoesOnBefore breakpoints s n ∧
    StopsWith breakpoints s cap n v b r

section
variable {breakpoints : List Word} {s : State}

/-- A search starts with its first state seen and no step made. -/
theorem searching_start : Searching breakpoints s 0 [loopKey s] s where
  reached := rfl
  seen w := by
    rw [seenBefore_succ (show Claims.stepsTo 0 s s from rfl), List.mem_singleton]
    refine (or_iff_left ?_).symm
    rintro ⟨m, -, hm, -⟩
    exact absurd hm (Nat.not_lt_zero m)
  goesOn k _ hpos hk := by omega

/-- A step to a state that is no reason to stop continues the search. -/
theorem Searching.next {m : Nat} {seen : List LoopKey} {v t : State} (h : Searching breakpoints s m seen v)
    (hstep : step v = .next t) (hgoes : Claims.searchGoesOn breakpoints s (m + 1) t) :
    Searching breakpoints s (m + 1) (loopKey t :: seen) t where
  reached := stepsTo_succ h.reached hstep
  seen w := by rw [seenBefore_succ (stepsTo_succ h.reached hstep), List.mem_cons, h.seen]
  goesOn k u hpos hk hu := by
    obtain hlt | rfl := Nat.lt_succ_iff_lt_or_eq.1 hk
    · exact h.goesOn k u hpos hlt hu
    · obtain rfl := stepsTo_unique hu (stepsTo_succ h.reached hstep)
      exact hgoes

theorem searchUntil_ends {n m : Nat} {seen : List LoopKey} {x y : Session} {r : RunResult} (hpos : 0 < m + n)
    (h : Searching breakpoints s m seen x.block) (hsearch : searchUntil n breakpoints seen x = (y, r)) :
    SearchEnds breakpoints s (m + n) y.block r := by
  induction n generalizing m seen x with
  | zero =>
    obtain ⟨rfl, rfl⟩ := Prod.mk.inj hsearch
    have hgoes := h.goesOn m x.block hpos (Nat.lt_succ_self m) h.reached
    exact .inr ⟨m, x.block, hpos, le_rfl, h.reached, fun k u hk hlt => h.goesOn k u hk (Nat.lt_succ_of_lt hlt),
      rfl, rfl, hgoes⟩
  | succ n ih =>
    unfold searchUntil at hsearch
    split at hsearch
    next why _ => exact nomatch why
    next why hrefused =>
      obtain ⟨rfl, rfl⟩ := Prod.mk.inj hsearch
      have hstep := step_of_sessionStep_refused hrefused
      exact .inl ⟨rfl, layoutNotAdmissible_of_step_refused hstep ▸ hstep⟩
    next z hz =>
      obtain ⟨t, ht, rfl⟩ := sessionStep_eq_next_iff.1 hz
      have hreached := stepsTo_succ h.reached ht
      have hstop {b : State} {r : RunResult} (hw : StopsWith breakpoints s (m + (n + 1)) (m + 1) t b r) :
          SearchEnds breakpoints s (m + (n + 1)) b r :=
        .inr ⟨m + 1, t, Nat.succ_pos m, by omega, hreached, h.goesOn, hw⟩
      split_ifs at hsearch with hhalted hbreak hseen
      · obtain ⟨rfl, rfl⟩ := Prod.mk.inj hsearch
        exact hstop ⟨rfl, hhalted⟩
      · obtain ⟨rfl, rfl⟩ := Prod.mk.inj hsearch
        exact hstop ⟨rfl, by simpa using hbreak, (runState_of_step ht).resolve_right hhalted⟩
      · obtain ⟨rfl, rfl⟩ := Prod.mk.inj hsearch
        exact hstop ⟨rfl, (h.seen t).1 (by simpa using hseen)⟩
      · have hgoes : Claims.searchGoesOn breakpoints s (m + 1) t :=
          ⟨by simpa using hbreak, (runState_of_step ht).resolve_right hhalted,
            fun hs => hseen (by simpa using (h.seen t).2 hs)⟩
        have hcap : m + (n + 1) = m + 1 + n := by omega
        rw [hcap]
        exact ih (by omega) (h.next ht hgoes) hsearch

end

/-- Settles O52: the search keeps `Searching` until a step that gives a reason to stop. -/
theorem stepsUntilResultsAreTrue : Obligations.StepsUntilResultsAreTrue := by
  intro cap breakpoints x y r hcap hsearch
  have hends := searchUntil_ends (by omega) searching_start hsearch
  rw [Nat.zero_add] at hends
  obtain ⟨rfl, hrefused⟩ | ⟨n, v, hpos, hle, hv, hgoes, hstops⟩ := hends
  · exact ⟨fun _ => hrefused, fun h => absurd rfl h⟩
  · refine ⟨fun h => ?_, fun _ => ⟨n, v, hpos, hle, hv, hgoes, ?_⟩⟩
    · rw [h] at hstops
      exact hstops.elim
    · cases r with
      | hitBreakpoint => exact ⟨fun _ => hstops, nofun, nofun, nofun⟩
      | loopDetected =>
        obtain ⟨hblock, hseen⟩ := hstops
        exact ⟨nofun, fun _ => ⟨hblock, (congrArg loopKey hblock).trans (loopKey_setRunState v _), hseen⟩, nofun, nofun⟩
      | stepCapReached => exact ⟨nofun, nofun, fun _ => hstops, nofun⟩
      | fault => exact ⟨nofun, nofun, nofun, fun _ => hstops⟩
      | refused => exact hstops.elim

end Sys2Proof.Machine
end

section
/-! Proofs for 60_exceptions.md and 70_reset_and_hazards.md: a fault found in IF or ID is taken by the fifth tick of an
empty pipeline (R341, R343, R344, R346), and what reset leaves (R381). -/

namespace Sys2Proof.Machine

/-! ## Faults of the front end (60_exceptions.md R341 to R346) -/

/-- The fourth tick of an empty pipeline brings the slot of the first fetch to WB, with nothing retired on the way. -/
theorem standsInWb_four_ticks {s : State} (hs : Claims.startsClean s) :
    ∃ t, ticks 4 s = clockEdge t ∧ programAndConfig (clockEdge t) = programAndConfig s ∧
      (clockEdge t).regs = s.regs ∧ (clockEdge t).dmem = (refNext s).dmem ∧
      (clockEdge t).faultRecord = s.faultRecord ∧ (clockEdge t).memwb.valid = true ∧
      StandsInWb s (clockEdge t).memwb := by
  obtain ⟨hticking, -, hready⟩ := id hs
  have hl : layoutAdmissible s.layout = true := hticking.2
  have h1 := aloneInId_clockEdge hs
  have h2 := h1.clockEdge hready hl
  obtain ⟨h3, -⟩ := h2.clockEdge hl
  have hl3 : layoutAdmissible (clockEdge (clockEdge (clockEdge s))).layout = true := hl
  obtain ⟨hslot, hdmem⟩ := standsInWb_memwbIn h3.config hl3 h3.valid h3.slot h3.dmem
  refine ⟨clockEdge (clockEdge (clockEdge s)), ?_, h3.config, (regsNext_of_bubble h3.noRetire).trans h3.regs, hdmem,
    h3.record, h3.valid, hslot⟩
  rw [ticks, tick_of_startsClean hs, ticks, h1.tick_eq, ticks, h2.tick_eq, ticks, h3.tick_eq, ticks]

/-- A tick that halts stores nothing (R346). -/
theorem dmem_of_tick_halted {s : State} (h : (tick s).runState = .haltedFault) : (tick s).dmem = s.dmem := by
  obtain ⟨-, ht⟩ | ⟨-, -, ht⟩ | ⟨-, -, ht⟩ := tick_cases s
  · rw [ht]
  · rw [ht, takeFault_dmem]
  · rw [ht, clockEdge_runState] at h
    cases h

/-- What the reference takes at the first instruction, the empty pipeline takes in its fifth tick. -/
theorem fifth_tick_of_raises {s : State} (hs : Claims.startsClean s) {kind : FaultTag} {info : Word}
    (h : raises s kind info) :
    ∃ t4 t5, Claims.stepsTo 4 s t4 ∧ t4.runState = .ready ∧ step t4 = .next t5 ∧ t5.runState = .haltedFault ∧
      t5.faultRecord = ⟨kind, s.pc, info⟩ ∧ t5.regs = s.regs ∧ t5.dmem = s.dmem := by
  obtain ⟨hticking, -, hready⟩ := id hs
  obtain ⟨-, hnext⟩ := h
  obtain ⟨t, h4, hconfig, hregs, hdmem, hrecord, hvalid, hslot⟩ := standsInWb_four_ticks hs
  have hticking4 : Claims.ticking (clockEdge t) := h4 ▸ ticking_ticks hticking 4
  obtain ⟨hregs5, hrun5, hrecord5⟩ :=
    tick_of_standsInWb hconfig hticking4.2 hready (clockEdge_runState t) hregs hrecord hvalid hslot
  rw [hnext] at hregs5 hrun5 hrecord5 hdmem
  exact ⟨clockEdge t, tick (clockEdge t), (stepsTo_iff_eq_ticks hticking 4).2 h4.symm, rfl, step_of_ticking hticking4,
    hrun5, hrecord5, hregs5, (dmem_of_tick_halted hrun5).trans hdmem⟩

/-- Settles O23: the reference takes the fault at once, so the pipeline does when its slot is in WB. -/
theorem pipelineTakesFetchAndDecodeFaults : Obligations.PipelineTakesFetchAndDecodeFaults := by
  intro s hs kind info hcases
  obtain ⟨-, -, hready⟩ := id hs
  refine fifth_tick_of_raises hs ?_
  obtain ⟨hmis, rfl, rfl⟩ | ⟨haligned, hout, rfl, rfl⟩ | ⟨hfetch, ⟨why, hd⟩, rfl, rfl⟩ := hcases
  · exact ⟨by decide, refNext_of_ready hready
      (fetchAndExec_of_fault ((accessFault_alignment_iff _ _).2 hmis) (by decide))⟩
  · exact ⟨by decide, refNext_of_ready hready
      (fetchAndExec_of_fault ((accessFault_range_iff _ _).2 ⟨haligned, hout⟩) (by decide))⟩
  · exact ⟨by decide, refNext_of_ready hready
      (fetchAndExec_of_invalid ((fetchable_iff_accessFault_none s).1 hfetch) hd)⟩

/-! ## Reset (70_reset_and_hazards.md R381) -/

theorem readReg_hostReset (m : Model) (pc : Word) (s : State) (r : RegIdx) : readReg (hostReset m pc s) r = 0 := by
  by_cases hr : r = 0#5
  · rw [hr, readReg_zero]
  · rw [readReg_of_ne hr]
    exact Vector.getElem_replicate _

/-- Settles O47: the registers read 0, and every other part is what reset sets it to. -/
theorem resetLeavesTheStatedState : Obligations.ResetLeavesTheStatedState := by
  intro m pc s
  exact ⟨readReg_hostReset m pc s, rfl, rfl, fun _ => rfl, rfl, rfl, rfl, rfl, rfl, rfl, rfl, rfl, rfl, rfl, rfl, rfl,
    rfl, rfl, rfl, rfl, rfl, rfl⟩

end Sys2Proof.Machine
end
